-- ==== Sys2Proof/Config.lean ====
section
/-! DEFINITION. The implementation parameters of the core (spec/00_scope.md rules R6 to R10; decision D18).

The spec gives each literal of its source as a named parameter with a default value. The host's `State` is one
fixed type, so the parameters stand here as named constants at the spec's defaults (log entry 1). Word.lean writes
the widths as numerals, and the tests check that each is its parameter. -/

namespace Sys2Proof.Config

/-- `A`, the width of a column address in bits (R8). -/
abbrev addrWidth : Nat := 8

/-- `N`, the depth of the memory array in cells (R6); `A = log2 N` (R8). -/
abbrev memDepth : Nat := 256

/-- `W`, the width of a memory cell, of a slot's value and of each accumulator in bits (R7). -/
abbrev cellWidth : Nat := 64

/-- `IN_W`, the width of the input channel's data in bits (R9). -/
abbrev inWidth : Nat := 8

/-- The depth of the pipeline window in slots (R10); `State` holds the slots as its fields `p0`, `p1`, `p2`. -/
abbrev windowDepth : Nat := 3

end Sys2Proof.Config
end

