-- ==== Sys2Proof/Word.lean ====
section
/-! DEFINITION. The three word types of the core (spec/00_scope.md rules R7, R8, R9, R12).

All three are unsigned and wrap: `+` and `-` on an `Addr` are modulo `N`, `+` on a `Word` is modulo `2^W` (R14). The widths are
numerals, each equal to its parameter of Config.lean, so that the arithmetic procedures read them (log entry 1). -/

namespace Sys2Proof

/-- A column address, which is also a memory cell's address: `A` bits (R8). -/
abbrev Addr := BitVec 8

/-- A memory cell, a slot's value or an accumulator: `W` bits (R7). -/
abbrev Word := BitVec 64

/-- A byte of the input channel: `IN_W` bits (R9). -/
abbrev Byte := BitVec 8

end Sys2Proof
end

