-- ==== Sys2Proof/Syntax.lean ====
section
/-! DEFINITION. The instructions: one constructor per row of spec/opcode_table.json (spec/30_encoding.md).

An instruction of this core is the class of one byte of its input stream. No class has an explicit operand (R74);
`malformed` carries the offending byte because 252 byte values share that class (R73) and the exception primitive
`raise Malformed(b)` names the byte (R16). -/

namespace Sys2Proof

/-- The byte classes (R72, R73). -/
inductive Instr where
  /-- `PASS`, the pass-through byte `'.'` (R150). -/
  | pass
  /-- `START`, the beam-start byte `'S'` (R151). -/
  | start
  /-- `SPLIT`, the split byte `'^'` (R152). -/
  | split
  /-- `NEWLINE`, the row terminator (R155 drain, R160 row end, R161 end of input). -/
  | newline
  /-- `MALFORMED`, any other byte `b` (R170). -/
  | malformed (b : Byte)
deriving DecidableEq, Repr

end Sys2Proof
end

