-- ==== Sys2Proof/WellFormed.lean ====
section
/-! DEFINITION. Which terms of `Instr` stand for a byte (spec/30_encoding.md rules R72, R73). -/

namespace Sys2Proof

/-- The four recognised byte values, in the order of R72's table (ASCII codes: log entry 2). -/
def recognisedBytes : List Byte := [0x2E#8, 0x53#8, 0x5E#8, 0x0A#8]

/-- The one check there is: a `malformed` term carries a byte outside the four recognised ones (R73). -/
def Instr.wellFormed : Instr → Bool
  | .pass => true
  | .start => true
  | .split => true
  | .newline => true
  | .malformed b => !recognisedBytes.contains b

end Sys2Proof
end

