-- ==== Sys2Proof/Decode.lean ====
section
/-! DEFINITION. The decoder and the encoder (spec/30_encoding.md rules R70 to R79).

Every instruction is exactly one byte, compared whole (R70, R71, R76). Classifying a byte is total (R73); the one
thing a list of bytes can be refused for is holding no byte. -/

namespace Sys2Proof

/-- `'.'` (R72). -/
def bytePass : Byte := 0x2E#8

/-- `'S'` (R72). -/
def byteStart : Byte := 0x53#8

/-- `'^'` (R72). -/
def byteSplit : Byte := 0x5E#8

/-- `'\n'`, the newline byte (R72). -/
def byteNewline : Byte := 0x0A#8

/-- The class of a byte: the table of R72, and `malformed` for each of the 252 other values (R73). -/
def decodeByte (b : Byte) : Instr :=
  if b = bytePass then .pass
  else if b = byteStart then .start
  else if b = byteSplit then .split
  else if b = byteNewline then .newline
  else .malformed b

/-- Why a list of bytes holds no instruction. -/
inductive DecodeError where
  /-- There is no byte to decode: every instruction is exactly one byte (R70). -/
  | noByte
deriving DecidableEq, Repr

/-- The first instruction of a list of bytes, and the bytes after it (R70). -/
def decode : List Byte → Except DecodeError (Instr × List Byte)
  | [] => .error .noByte
  | b :: rest => .ok (decodeByte b, rest)

/-- A program is its sequence of bytes in order of transfer, one instruction each (R79). -/
def decodeStream (bs : List Byte) : List Instr :=
  bs.map decodeByte

/-- The byte of an instruction (R72, R73). -/
def encodeByte : Instr → Byte
  | .pass => 0x2E#8
  | .start => 0x53#8
  | .split => 0x5E#8
  | .newline => 0x0A#8
  | .malformed b => b

/-- The bytes of an instruction: exactly one (R70). -/
def encode (i : Instr) : List Byte :=
  [encodeByte i]

/-- The byte stream of a program (R79). -/
def encodeStream (is : List Instr) : List Byte :=
  is.flatMap encode

/-- The single byte of an instruction whose bits are the low `nbits` bits of `w`, as spec/opcode_table.json numbers
them. -/
def tableByte (nbits w : Nat) : Byte :=
  BitVec.ofNat 8 (w % 2 ^ nbits)

/-- What the decoder reads from an instruction whose bits are `w`. -/
def decodeTableWord (nbits w : Nat) : Option Instr :=
  match decode [tableByte nbits w] with
  | .ok (i, _) => some i
  | .error _ => none

end Sys2Proof
end

