-- ==== Sys2Proof/Machine/State.lean ====
section
/-! DEFINITION. The state of the core, the ways a step can stop, and the state at power-on
(spec/10_state.md rules R20 to R37).

The first eleven fields of `State` are every register and the memory array of R20. The last two are the MODEL's own:
the levels the environment will drive on the input ports in the cycles to come (R33, R101), held as data because a
step takes no argument but the state (log entry 5). -/

namespace Sys2Proof.Machine

/-- The four states of the control state machine; the spec gives them no bit encoding (R11, R30, D26). -/
inductive Fsm where
  /-- `RESET`: zero-filling the memory array (R133). -/
  | reset
  /-- `INPUT`: classifying and consuming bytes (R131). -/
  | input
  /-- `DONE`: terminal, the two results are exposed (R136, R161). -/
  | done
  /-- `ERROR`: terminal, only the error indicator is exposed (R136, R170). -/
  | error
deriving DecidableEq, Repr

/-- One slot of the pipeline window (R17, R25). -/
structure Slot where
  /-- The enable bit. -/
  en : Bool
  /-- The column address, `A` bits. -/
  addr : Addr
  /-- The value, `W` bits. -/
  value : Word
deriving DecidableEq, Repr

/-- The memory array (R31, R50): the cells that hold something else than an unlisted cell reads as, as (address, cell)
pairs with strictly rising addresses. A cell is one `W`-bit integer that is never split into bytes (R55; log
entry 4). -/
abbrev Memory := List (Nat × Word)

/-- What the upstream byte source does next on the input channel (R91, R99, R101). -/
inductive Beat where
  /-- Drive `in_valid = 0`, with `in_data = d`, for one cycle (a producer-side pause). -/
  | pause (d : Byte)
  /-- Drive `in_valid = 1` and `in_data = b` until the transfer: what the producer's duty asks (R91). -/
  | offer (b : Byte)
  /-- Drive `in_valid = 1` and `in_data = b` for one cycle only, transferred or not: a producer that breaks its duty,
  which the core cannot tell (R99). -/
  | pulse (b : Byte)
deriving DecidableEq, Repr

/-- The faults. There are none: the core's one exception, Malformed Input, is the state `ERROR` of the machine, from
which cycles go on (R136, R180), and no other condition raises anything (R181). -/
inductive Fault where
deriving DecidableEq, Repr

/-- The refusals. -/
inductive Refusal where
  /-- An instruction that has no meaning yet, raised only by `exec`'s arm for it (no arm does so now). Safe: the model
  stops where the hardware goes on. -/
  | notModelled (mnemonic : String)
deriving DecidableEq, Repr

/-- The state of the core between two clock edges, with the environment's port levels to come. -/
structure State where
  /-- The state of the control state machine (R30). -/
  fsm : Fsm
  /-- `addr`, the column address register: the cell to fill in `RESET`, the column of the next grid byte in `INPUT`
  (R22). -/
  addr : Addr
  /-- `rd_wait`, the one-cycle read-latency compensation flag (R23). -/
  rdWait : Bool
  /-- `rd_data`, the output register of the memory's read port (R24). -/
  rdData : Word
  /-- `p[0]`, the trailing slot (R25). -/
  p0 : Slot
  /-- `p[1]`, the current slot (R25). -/
  p1 : Slot
  /-- `p[2]`, the leading slot (R25). -/
  p2 : Slot
  /-- `running_sum`, the sum of this row's retirements (R27). -/
  runningSum : Word
  /-- `result_part_a`, the count of split bytes whose read value was nonzero (R28). -/
  resultPartA : Word
  /-- `result_part_b`, the `running_sum` of the last completed row (R29). -/
  resultPartB : Word
  /-- `mem`, the memory array (R31). -/
  mem : Memory
  /-- The model's own: the levels of `rst` in this cycle and the ones after it; past its end `rst = 0` (log entry 5). -/
  resetLine : List Bool
  /-- The model's own: what the upstream byte source does in this cycle and the ones after it; past its end it never
  raises `in_valid` (log entry 5). -/
  producer : List Beat
deriving DecidableEq, Repr

/-- `EMPTY`, the contents of every disabled slot (R17, D8). -/
def Slot.empty : Slot := { en := false, addr := 0#8, value := 0#64 }

/-- Power-on: every register at its reset value of R36, as if `rst` had been asserted (R37). The spec leaves `rd_data`
and the memory array open at power-on; `rdData` is 0 (log entry 3) and no cell is listed (log entry 4). No byte is
presented and `rst` is 0 (log entry 5). -/
def State.reset : State :=
  { fsm := .reset
    addr := 0#8
    rdWait := false
    rdData := 0#64
    p0 := Slot.empty
    p1 := Slot.empty
    p2 := Slot.empty
    runningSum := 0#64
    resultPartA := 0#64
    resultPartB := 0#64
    mem := []
    resetLine := []
    producer := [] }

end Sys2Proof.Machine
end

