-- ==== Sys2Proof/Machine/Operands.lean ====
section
/-! DEFINITION. The implicit operands of the byte operations (spec/30_encoding.md rule R74; the names `c`, `r` and `k`
of spec/43_byte_ops.md). Each is read from the registers as they stand before the edge (R132). -/

namespace Sys2Proof.Machine

/-- `val(s)`: a slot's value if it is enabled, and 0 otherwise (R17). -/
def Slot.val (p : Slot) : Word :=
  if p.en then p.value else 0#64

/-- An enabled slot `{en=1, addr=a, value=v}` (R17). -/
def Slot.live (a : Addr) (v : Word) : Slot :=
  { en := true, addr := a, value := v }

/-- `c = addr`, the column of the byte being classified. -/
def State.column (s : State) : Addr :=
  s.addr

/-- `r = rd_data`, the memory read result for column `c` (R24). -/
def State.readValue (s : State) : Word :=
  s.rdData

/-- `k = val(p[2])`, the carry for column `c`. -/
def State.carry (s : State) : Word :=
  s.p2.val

end Sys2Proof.Machine
end

