-- ==== Sys2Proof/Machine/Flags.lean ====
section
/-! DEFINITION. The one-bit signals computed from the registers, and the result outputs. The core has no condition
codes, no flag register and no control or status register (spec/10_state.md rule R32); arithmetic sets nothing (R14). -/

namespace Sys2Proof.Machine

/-- The drain test of a newline: the trailing or the current slot is still enabled (R155; R116 says that this is the
test "the window is not empty"). -/
def State.windowBusy (s : State) : Bool :=
  s.p0.en || s.p1.en

/-- Output `done` (R33, R34). -/
def State.done (s : State) : Bool :=
  s.fsm == .done

/-- Output `error`, the error indicator (R33, R34). -/
def State.error (s : State) : Bool :=
  s.fsm == .error

/-- Output `result_a`: a level, meaningful to a consumer only while `done = 1` (R34, D14). -/
def State.resultA (s : State) : Word :=
  s.resultPartA

/-- Output `result_b`: a level, meaningful to a consumer only while `done = 1` (R34, D14). -/
def State.resultB (s : State) : Word :=
  s.resultPartB

end Sys2Proof.Machine
end

