-- ==== Sys2Proof/Machine/Ops.lean ====
section
/-! DEFINITION. The shared operations: the memory primitives (spec/20_memory.md), the window operations
(spec/41_window.md), the register updates the byte operations share, taking the one exception
(spec/60_exceptions.md), and the reset edge, which is the only way out of a terminal state.

Every operation reads its argument only, so it sees the registers as they stood before the edge (R13, R132). -/

namespace Sys2Proof.Machine

/-! ### The memory array -/

/-- What a cell that no entry lists reads as: the zero that the fill leaves everywhere (R133). At power-on the spec
leaves the cells open (R37, U1); there it is the model's choice (log entry 4). -/
def unlistedCell : Word := 0#64

/-- The cell at address `a`. -/
def Memory.cellAt : Memory → Nat → Word
  | [], _ => unlistedCell
  | (b, w) :: m, a => if a = b then w else Memory.cellAt m a

/-- The array with cell `a` holding `v`, in canonical form again. -/
def Memory.setCell : Memory → Nat → Word → Memory
  | [], a, v => if v = unlistedCell then [] else [(a, v)]
  | (b, w) :: m, a, v =>
    if a < b then (if v = unlistedCell then (b, w) :: m else (a, v) :: (b, w) :: m)
    else if a = b then (if v = unlistedCell then m else (a, v) :: m)
    else (b, w) :: Memory.setCell m a v

/-- `MemRead(a, 1)`: the whole cell `a`; every address exists and a read has no side effect (R15, R50, R57). -/
def Memory.read (m : Memory) (a : Addr) : Word :=
  m.cellAt a.toNat

/-- `MemWrite(a, 1, v)`: the whole cell `a` takes `v` (R15, R57). -/
def Memory.write (m : Memory) (a : Addr) (v : Word) : Memory :=
  m.setCell a.toNat v

/-- The canonical form from address `lo` on: addresses strictly rising, each of an existing cell, and no entry equal to
what an unlisted cell reads as. -/
def Memory.wfFrom : Nat → Memory → Bool
  | _, [] => true
  | lo, (a, v) :: m =>
    decide (lo ≤ a) && decide (a < Config.memDepth) && (v != unlistedCell) && Memory.wfFrom (a + 1) m

/-- The canonical form of a memory: equal arrays are equal lists. -/
def Memory.wf (m : Memory) : Bool :=
  Memory.wfFrom 0 m

/-! ### The pipeline window -/

/-- Retire: the trailing slot, if enabled, is written back at its own address and added into `running_sum`, modulo
`2^W` (R110). -/
def retire (s : State) : State :=
  { s with
    mem := if s.p0.en then s.mem.write s.p0.addr s.p0.value else s.mem
    runningSum := if s.p0.en then s.runningSum + s.p0.value else s.runningSum }

/-- Advance: retire, then the window moves one column to the right with trailing slot `t`, the current slot enabled at
column `c` with value `v`, and leading slot `lead` (R111). -/
def advance (t : Slot) (v : Word) (lead : Slot) (s : State) : State :=
  { retire s with p0 := t, p1 := Slot.live s.column v, p2 := lead }

/-- Drain: retire, then the slots shift toward the trailing end with no new column (R112, D27). -/
def drain (s : State) : State :=
  { retire s with p0 := s.p1, p1 := s.p2, p2 := Slot.empty }

/-! ### Register updates -/

/-- `addr <- c + 1`, modulo `N` (R14, R150 to R152). -/
def nextColumn (s : State) : State :=
  { s with addr := s.addr + 1#8 }

/-- A split counts in `result_part_a` when its read value is nonzero, modulo `2^W` (R28, R152). -/
def countSplit (s : State) : State :=
  { s with resultPartA := if s.readValue ≠ 0#64 then s.resultPartA + 1#64 else s.resultPartA }

/-- Close a row: its sum replaces `result_part_b`, `running_sum` and `addr` go to 0 (R160). -/
def closeRow (s : State) : State :=
  { s with resultPartB := s.runningSum, runningSum := 0#64, addr := 0#8 }

/-- End the input: `DONE`, with `addr` at 0 (R161). -/
def endInput (s : State) : State :=
  { s with fsm := .done, addr := 0#8 }

/-! ### The exception, and the only way back -/

/-- `raise Malformed(b)` (R16, R170, R180): the state machine enters `ERROR` and nothing else changes. Nothing is
saved: there is no cause code, no record of the byte `_b` or of its column, no vector and no mask (R184, D9, D17). -/
def raiseMalformed (_b : Byte) (s : State) : State :=
  { s with fsm := .error }

/-- What an edge with `rst = 1` writes (R36, R130). It is the only exit from `ERROR` and `DONE`, and it resumes nothing
(R185). The memory array is not written; `rd_data` is not reset, it reloads as in every cycle (R52). -/
def resetEdge (s : State) : State :=
  { s with
    fsm := .reset
    addr := 0#8
    rdWait := false
    p0 := Slot.empty
    p1 := Slot.empty
    p2 := Slot.empty
    runningSum := 0#64
    resultPartA := 0#64
    resultPartB := 0#64 }

end Sys2Proof.Machine
end

