-- ==== Sys2Proof/Machine/Channel.lean ====
section
/-! DEFINITION. The input ports, the flow-controlled channel and the environment that drives them
(spec/10_state.md rule R33, spec/40_channel.md). The environment is the model's own data in `State` (log entry 5). -/

namespace Sys2Proof.Machine

/-- The levels of the core's input ports in one cycle (R33). -/
structure Ports where
  /-- `rst`, active high (R130, D2). -/
  rst : Bool
  /-- `in_valid`. -/
  inValid : Bool
  /-- `in_data`. -/
  inData : Byte
deriving DecidableEq, Repr

/-- `in_data` once the producer has nothing left to do: with `in_valid = 0` nothing looks at it but `in_ready`, which is
then a don't care (R75, R92, U6; log entry 5). -/
def restingData : Byte := 0#8

/-- `rst` in this cycle. -/
def State.rst (s : State) : Bool :=
  s.resetLine.headD false

/-- `in_valid` in this cycle (R33). -/
def State.inValid (s : State) : Bool :=
  match s.producer with
  | .offer _ :: _ => true
  | .pulse _ :: _ => true
  | .pause _ :: _ => false
  | [] => false

/-- `in_data` in this cycle (R33). -/
def State.inData (s : State) : Byte :=
  match s.producer with
  | .offer b :: _ => b
  | .pulse b :: _ => b
  | .pause d :: _ => d
  | [] => restingData

/-- The input levels of this cycle. -/
def State.ports (s : State) : Ports :=
  { rst := s.rst, inValid := s.inValid, inData := s.inData }

/-- `in_ready`, combinational on the registers and on the presented byte `d`; it depends neither on `in_valid` nor on
`rst` (R95, D10, D15). -/
def State.readyFor (s : State) (d : Byte) : Bool :=
  (s.fsm == .input) && !s.rdWait && !((d == byteNewline) && (s.p0.en || s.p1.en))

/-- Output `in_ready` in this cycle (R33, R95). -/
def State.inReady (s : State) : Bool :=
  s.readyFor s.inData

/-- The transfer condition `xfer = in_valid ∧ in_ready`, evaluated on the values present in the cycle (R90). A transfer
in a cycle with `rst = 1` is a transfer to the producer too (R100). -/
def State.xfer (s : State) : Bool :=
  s.inValid && s.inReady

/-- The producer after this cycle's edge, `t` saying whether the cycle was a transfer: an offered byte stays until its
transfer (R91), anything else lasts one cycle. -/
def producerNext (t : Bool) : List Beat → List Beat
  | [] => []
  | .pause _ :: rest => rest
  | .pulse _ :: rest => rest
  | .offer b :: rest => if t then rest else .offer b :: rest

/-- A producer that drives exactly these levels, one cycle each, whatever the core answers. -/
def beatOf (w : Ports) : Beat :=
  if w.inValid then .pulse w.inData else .pause w.inData

/-- `s` with the environment driving exactly the waveform `ws`, one entry a cycle. -/
def State.driven (s : State) (ws : List Ports) : State :=
  { s with resetLine := ws.map Ports.rst, producer := ws.map beatOf }

/-- `s` in its first cycle that can classify a byte (`INPUT`, no pending read, R75), with the byte `b` offered ahead of
whatever the producer would do, and `rst` low in that cycle. -/
def State.presentingFirst (s : State) (b : Byte) : State :=
  { s with
    fsm := .input
    rdWait := false
    resetLine := match s.resetLine with
      | [] => []
      | _ :: later => false :: later
    producer := .offer b :: s.producer }

end Sys2Proof.Machine
end

