-- ==== Sys2Proof/Machine/GridBytes.lean ====
section
/-! DEFINITION. The grid bytes: PASS, START and SPLIT (spec/43_byte_ops.md rules R150 to R153).

A meaning is the action the cycle of that byte performs (R131). The read port's reload of `rd_data` and the producer's
own move belong to every cycle and stand in Cycle.lean. -/

namespace Sys2Proof.Machine

/-- `PASS`, `'.'`: the column's value is the read value plus the carry (R150). -/
def execPass (s : State) : Host.Outcome State Fault Refusal :=
  .next (nextColumn (advance s.p1 (s.readValue + s.carry) Slot.empty s))

/-- `START`, `'S'`: the column's value is 1; the read value and the carry are dropped (R151, D7). -/
def execStart (s : State) : Host.Outcome State Fault Refusal :=
  .next (nextColumn (advance s.p1 1#64 Slot.empty s))

/-- The trailing slot a split leaves: column `c - 1` (modulo `N`), always enabled, the value moved left added in
(R152, D6). -/
def splitTrailing (s : State) : Slot :=
  Slot.live (s.column - 1#8) (s.p1.val + s.readValue)

/-- The leading slot a split leaves: column `c + 1` (modulo `N`), always enabled, the value moved right (R152, D6). -/
def splitLeading (s : State) : Slot :=
  Slot.live (s.column + 1#8) s.readValue

/-- `SPLIT`, `'^'`: the read value goes to both neighbours, only the carry stays, and a nonzero read value is counted
(R152). -/
def execSplit (s : State) : Host.Outcome State Fault Refusal :=
  .next (nextColumn (advance (splitTrailing s) s.carry (splitLeading s) (countSplit s)))

end Sys2Proof.Machine
end

