-- ==== Sys2Proof/Machine/Malformed.lean ====
section
/-! DEFINITION. Any other byte: MALFORMED (spec/43_byte_ops.md rule R170, spec/60_exceptions.md rule R180). -/

namespace Sys2Proof.Machine

/-- `MALFORMED`: the byte is consumed and the core takes its one exception (R170). -/
def execMalformed (b : Byte) (s : State) : Host.Outcome State Fault Refusal :=
  .next (raiseMalformed b s)

end Sys2Proof.Machine
end

