-- ==== Sys2Proof/Machine/Newline.lean ====
section
/-! DEFINITION. The row terminator NEWLINE (spec/43_byte_ops.md rules R155, R160, R161; the order of R131). -/

namespace Sys2Proof.Machine

/-- `NEWLINE`: while the window is busy it is held back and the window drains (R155); then it closes the row when
`addr` is not 0 (R160), and otherwise ends the input (R161). -/
def execNewline (s : State) : Host.Outcome State Fault Refusal :=
  if s.windowBusy then .next (drain s)
  else if s.addr = 0#8 then .next (endInput s)
  else .next (closeRow s)

end Sys2Proof.Machine
end

