-- ==== Sys2Proof/Machine/Dispatch.lean ====
section
/-! DEFINITION. One arm per constructor of Instr: the case over the byte's class in R131. -/

namespace Sys2Proof.Machine

def exec (i : Instr) (s : State) : Host.Outcome State Fault Refusal :=
  match i with
  | .pass => Sys2Proof.Machine.execPass s
  | .start => Sys2Proof.Machine.execStart s
  | .split => Sys2Proof.Machine.execSplit s
  | .newline => Sys2Proof.Machine.execNewline s
  | .malformed b => Sys2Proof.Machine.execMalformed b s

end Sys2Proof.Machine
end

