-- ==== Sys2Proof/Machine/Cycle.lean ====
section
/-! DEFINITION. One clock cycle of the core: the actions that are no byte's, and the dispatch among all of them
(spec/42_fsm_cycle.md rules R130 to R136; the priorities of spec/60_exceptions.md rule R183). -/

namespace Sys2Proof.Machine

/-- `N - 1`, the address of the last cell (R6, R133). -/
def lastCell : Addr := BitVec.ofNat 8 (Config.memDepth - 1)

/-- One cycle of the zero fill; the cycle that writes the last cell also moves to `INPUT` (R133, D13). -/
def fillCycle (s : State) : State :=
  if s.addr = lastCell then
    { s with mem := s.mem.write s.addr 0#64, fsm := .input, addr := 0#8, rdWait := true }
  else
    { s with mem := s.mem.write s.addr 0#64, addr := s.addr + 1#8 }

/-- The latency bubble, the first cycle of `INPUT` (R134, D4). -/
def bubble (s : State) : State :=
  { s with rdWait := false }

/-- A cycle of `INPUT` with no byte presented: no register changes (R135, D5, D19). -/
def idle (s : State) : State := s

/-- A cycle of `DONE` or `ERROR`: no register changes (R136). -/
def terminalHold (s : State) : State := s

/-- A byte is decoded only in a cycle where all of these hold (R75). -/
def State.classifies (s : State) : Bool :=
  !s.rst && (s.fsm == .input) && !s.rdWait && s.inValid

/-- The action of one cycle, before the read port's reload (R131): reset first, then the state's own action, then in
`INPUT` the bubble, idling, and the presented byte's meaning, in that order (R183). -/
def action (s : State) : Host.Outcome State Fault Refusal :=
  if s.rst then .next (resetEdge s)
  else match s.fsm with
    | .reset => .next (fillCycle s)
    | .input =>
      if s.rdWait then .next (bubble s)
      else if !s.inValid then .next (idle s)
      else exec (decodeByte s.inData) s
    | .done => .next (terminalHold s)
    | .error => .next (terminalHold s)

/-- What the edge of every cycle adds to its action `t`: the read port loads the cell at the NEW address from the array
as it stood BEFORE this cycle's write (R52, R53, R54, R131), and the environment moves on to the next cycle. -/
def endCycle (s t : State) : State :=
  { t with
    rdData := s.mem.read t.addr
    resetLine := s.resetLine.tail
    producer := producerNext s.xfer s.producer }

/-- One clock cycle (R131). -/
def cycle (s : State) : Host.Outcome State Fault Refusal :=
  match action s with
  | .next t => .next (endCycle s t)
  | .fault f => .fault f
  | .refused r => .refused r

end Sys2Proof.Machine
end

