-- ==== Sys2Proof/Machine/Step.lean ====
section
/-! DEFINITION. One step of the machine is one clock cycle, from one rising edge of `clk` to the next
(spec/00_scope.md rule R13, spec/42_fsm_cycle.md rule R131). -/

namespace Sys2Proof.Machine

/-- One clock cycle. -/
def step (s : State) : Host.Outcome State Fault Refusal :=
  cycle s

/-- `s` with the instruction whose bits are `w` presented so that the very next step classifies and runs it. A program
is never stored in the core (R21, R63): this stands for the fill, the bubble and a producer's presenting the byte (log
entry 6). -/
def State.withFetchWord (s : State) (nbits w : Nat) : State :=
  s.presentingFirst (tableByte nbits w)

end Sys2Proof.Machine
end

