-- ==== Sys2Proof/Safety.lean ====
section
/-! DEFINITION. The terms claims are stated in: what a legal state is, what a producer that keeps its duty is, what the
window looks like in a classifying cycle, the register values at the first consuming cycle, and the total mass.
Nothing here is part of the machine. -/

namespace Sys2Proof.Machine

/-! ### Runs -/

/-- `n` clock cycles from `s`: the host's run of the core. -/
def run (n : Nat) (s : State) : Host.Outcome State Fault Refusal :=
  Host.Core.run Sys2Proof.core n s

/-- Either terminal state, the two distinct outcomes of a problem instance (R136, R186, R187). -/
def State.terminal (s : State) : Prop :=
  s.fsm = .done ∨ s.fsm = .error

/-- `rst` stays low in this cycle and in the `n - 1` cycles after it (the reset driver's duty, R101). -/
def State.resetLowFor (s : State) (n : Nat) : Prop :=
  ∀ j : Nat, j < n → s.resetLine.getD j false = false

/-! ### Legal states -/

/-- A disabled slot is `EMPTY` (D8). -/
def Slot.canonical (p : Slot) : Bool :=
  p.en || (p == Slot.empty)

/-- All three slots are `EMPTY`. -/
def State.windowEmpty (s : State) : Prop :=
  s.p0 = Slot.empty ∧ s.p1 = Slot.empty ∧ s.p2 = Slot.empty

/-- The three accumulators are 0. -/
def State.accumulatorsZero (s : State) : Prop :=
  s.runningSum = 0#64 ∧ s.resultPartA = 0#64 ∧ s.resultPartB = 0#64

/-- What holds between any two cycles, whatever the environment does. -/
structure State.Legal (s : State) : Prop where
  /-- The memory is in canonical form (log entry 4). -/
  memory : s.mem.wf = true
  /-- A disabled trailing slot is `EMPTY` (D8). -/
  trailing : s.p0.canonical = true
  /-- A disabled current slot is `EMPTY` (D8). -/
  current : s.p1.canonical = true
  /-- A disabled leading slot is `EMPTY` (D8). -/
  leading : s.p2.canonical = true
  /-- The leading slot is enabled only together with the current one (R116). -/
  carryFollows : s.p2.en = true → s.p1.en = true
  /-- In `RESET` no read is pending, nothing is in flight, every sum is 0, and the cells below `addr` are filled with
  zero, so none of them is listed (R36, R133). -/
  filling : s.fsm = .reset →
    s.rdWait = false ∧ s.windowEmpty ∧ s.accumulatorsZero ∧ Memory.wfFrom s.addr.toNat s.mem = true
  /-- A pending read means the first cycle of `INPUT`, everything zero (R23, R133). -/
  pending : s.rdWait = true →
    s.fsm = .input ∧ s.addr = 0#8 ∧ s.windowEmpty ∧ s.accumulatorsZero ∧ s.mem = []

/-! ### The producer's duty -/

/-- A beat that keeps R91: not a byte withdrawn before its transfer. -/
def Beat.dutiful : Beat → Bool
  | .pause _ => true
  | .offer _ => true
  | .pulse _ => false

/-- The upstream byte source keeps R91 from here on. -/
def State.dutiful (s : State) : Bool :=
  s.producer.all Beat.dutiful

/-- A producer's beats without its pauses: the same bytes in the same order. -/
def offers : List Beat → List Beat
  | [] => []
  | .offer b :: rest => .offer b :: offers rest
  | .pulse b :: rest => .pulse b :: offers rest
  | .pause _ :: rest => offers rest

/-- The byte now waiting on the channel is a newline. -/
def State.newlineOffered (s : State) : Prop :=
  s.producer.head? = some (.offer byteNewline)

/-! ### The window in a classifying cycle -/

/-- The window holds columns `c - 2`, `c - 1` and `c`, where `c = addr` (R26), the slots being enabled from the current
one outward, and an empty window means column 0. -/
structure State.Aligned (s : State) : Prop where
  /-- The trailing slot is column `c - 2`. -/
  trailing : s.p0.en = true → s.p0.addr = s.addr - 2#8 ∧ s.p1.en = true
  /-- The current slot is column `c - 1`. -/
  current : s.p1.en = true → s.p1.addr = s.addr - 1#8
  /-- The leading slot is column `c`. -/
  leading : s.p2.en = true → s.p2.addr = s.addr ∧ s.p1.en = true
  /-- With no current slot the row has not begun. -/
  rowStart : s.p1.en = false → s.addr = 0#8

/-- `rd_data` is the cell at `addr` as it stands (R60). -/
def State.Fresh (s : State) : Prop :=
  s.rdData = s.mem.read s.addr

/-- What holds between any two cycles when the producer keeps R91: in `INPUT`, with no read pending, the window is
aligned and the read is fresh, but while a newline is waiting to be accepted. -/
structure State.Streaming (s : State) : Prop where
  /-- The state is legal. -/
  legal : s.Legal
  /-- The producer keeps its duty. -/
  duty : s.dutiful = true
  /-- Aligned and fresh, but during a drain. -/
  ready : s.fsm = .input → s.rdWait = false → s.newlineOffered ∨ (s.Aligned ∧ s.Fresh)

/-! ### Boot -/

/-- Every register and every cell at the value of R201's table. -/
structure State.FirstConsuming (s : State) : Prop where
  /-- `INPUT`. -/
  fsm : s.fsm = .input
  /-- The read is no longer pending. -/
  rdWait : s.rdWait = false
  /-- Column 0. -/
  addr : s.addr = 0#8
  /-- `mem[0]`, loaded in the bubble. -/
  rdData : s.rdData = 0#64
  /-- Nothing is in flight. -/
  window : s.windowEmpty
  /-- Nothing has been summed or counted. -/
  accumulators : s.accumulatorsZero
  /-- Every cell is 0. -/
  mem : ∀ a : Addr, s.mem.read a = 0#64

/-! ### Mass -/

/-- Cell `a` is shadowed by an enabled trailing or current slot (R35, R114). -/
def State.shadowed (s : State) (a : Addr) : Bool :=
  (s.p0.en && (s.p0.addr == a)) || (s.p1.en && (s.p1.addr == a))

/-- The total mass `M` of R114, modulo `2^W`: the slots, and every cell not held by an enabled trailing or current
slot. -/
def State.mass (s : State) : Word :=
  s.p0.val + s.p1.val + s.p2.val
    + ((List.range Config.memDepth).map fun n =>
        if s.shadowed (BitVec.ofNat 8 n) then 0#64
        else s.mem.read (BitVec.ofNat 8 n)).sum

end Sys2Proof.Machine
end

