-- ==== Sys2Proof/Certificates/Slice0/Obligations.lean ====
section
/-! DEFINITION. The statements for the provers. Each docstring names the rules of spec/ the statement formalises.
Where a rule carries the spec's own mark "[decision: ... Dn]" or "[derived: ...]", or a clause rests on a log entry, the
docstring says so. -/

open Sys2Proof Sys2Proof.Machine

/-! ### Encoding -/

/-- R72, R73: the class of a byte, exactly, and every byte value has one. Two things here are log entry 2 (DEDUCED): the
codes, which the spec takes from general knowledge (D20, G1), and the byte that `malformed` carries. -/
def Obligations.ByteClassesAreExact : Prop :=
  ∀ b : Byte,
    (decodeByte b = .pass ↔ b = 0x2E#8) ∧
    (decodeByte b = .start ↔ b = 0x53#8) ∧
    (decodeByte b = .split ↔ b = 0x5E#8) ∧
    (decodeByte b = .newline ↔ b = 0x0A#8) ∧
    (∀ d : Byte, decodeByte b = .malformed d ↔
      d = b ∧ b ≠ 0x2E#8 ∧ b ≠ 0x53#8 ∧ b ≠ 0x5E#8 ∧ b ≠ 0x0A#8)

/-- The rows of spec/opcode_table.json, read from their words (R70 to R73); `0x0D`, `0x23` and `0x4C` are three of the
malformed bytes R73 and the test vectors name. The codes and the carried byte are log entry 2's. -/
def Obligations.TableWordsDecode : Prop :=
  decodeTableWord 8 0x2E = some .pass ∧
  decodeTableWord 8 0x53 = some .start ∧
  decodeTableWord 8 0x5E = some .split ∧
  decodeTableWord 8 0x0A = some .newline ∧
  decodeTableWord 8 0x00 = some (.malformed 0x00#8) ∧
  decodeTableWord 8 0x0D = some (.malformed 0x0D#8) ∧
  decodeTableWord 8 0x23 = some (.malformed 0x23#8) ∧
  decodeTableWord 8 0x4C = some (.malformed 0x4C#8)

/-- Decode and encode agree on whole programs (R70, R76, R79): every sequence of well-formed instructions has a byte
stream, one byte each, that decodes to it, and every byte stream is the encoding of the well-formed program it decodes
to. The byte that `malformed` carries, without which the second direction would fail, is log entry 2's. -/
def Obligations.ProgramsAndByteStreamsCorrespond : Prop :=
  (∀ p : List Instr, (∀ i ∈ p, i.wellFormed = true) →
    decodeStream (encodeStream p) = p ∧ (encodeStream p).length = p.length) ∧
  (∀ bs : List Byte, encodeStream (decodeStream bs) = bs ∧ ∀ i ∈ decodeStream bs, i.wellFormed = true) ∧
  (∀ b : Byte, ∀ bs : List Byte, decode (b :: bs) = .ok (decodeByte b, bs) ∧ encode (decodeByte b) = [b])

/-! ### A step and the instruction it runs -/

/-- R75, R131: in a cycle that classifies a byte, the step is the meaning of the instruction the byte decodes to, and
around it only what every cycle adds: the read port's reload from the new `addr` and the array before the write (R52,
R53), and the environment's own move (log entry 5). -/
def Obligations.StepRunsTheClassifiedByte : Prop :=
  ∀ s : State, s.rst = false → s.fsm = .input → s.rdWait = false → s.inValid = true →
    (decodeByte s.inData).wellFormed = true ∧
    ∃ t : State, exec (decodeByte s.inData) s = .next t ∧
      step s = .next { t with
        rdData := s.mem.read t.addr
        resetLine := s.resetLine.tail
        producer := producerNext s.xfer s.producer }

/-- R75: in a cycle that does not classify, what the producer presents changes no register and no cell. -/
def Obligations.UnclassifiedInputChangesNothing : Prop :=
  ∀ (s : State) (q : List Beat),
    s.classifies = false → { s with producer := q }.classifies = false →
    ∃ t u : State, step s = .next t ∧ step { s with producer := q } = .next u ∧
      { t with producer := [] } = { u with producer := [] }

/-- R181, R131: no cycle stops the machine, whatever the state and the inputs, and no instruction does. -/
def Obligations.EveryCycleCompletes : Prop :=
  (∀ s : State, ∃ t : State, step s = .next t) ∧
  (∀ (i : Instr) (s : State), ∃ t : State, exec i s = .next t) ∧
  (∀ (n : Nat) (s : State), ∃ t : State, run n s = .next t)

/-! ### What each instruction does -/

/-- R150: PASS, in full; its encoding is the byte `0x2E`. It retires the trailing slot (R110) and advances (R111). -/
def Obligations.PassResult : Prop :=
  encode .pass = [0x2E#8] ∧
  ∀ s : State, exec .pass s = .next { s with
    p0 := s.p1
    p1 := { en := true, addr := s.addr, value := s.rdData + (if s.p2.en then s.p2.value else 0#64) }
    p2 := { en := false, addr := 0#8, value := 0#64 }
    addr := s.addr + 1#8
    mem := if s.p0.en then s.mem.write s.p0.addr s.p0.value else s.mem
    runningSum := if s.p0.en then s.runningSum + s.p0.value else s.runningSum }

/-- R151 (with D7: the carry is dropped too): START, in full; its encoding is the byte `0x53`. -/
def Obligations.StartResult : Prop :=
  encode .start = [0x53#8] ∧
  ∀ s : State, exec .start s = .next { s with
    p0 := s.p1
    p1 := { en := true, addr := s.addr, value := 1#64 }
    p2 := { en := false, addr := 0#8, value := 0#64 }
    addr := s.addr + 1#8
    mem := if s.p0.en then s.mem.write s.p0.addr s.p0.value else s.mem
    runningSum := if s.p0.en then s.runningSum + s.p0.value else s.runningSum }

/-- R152 (with D6: both share slots are enabled whatever the read value, and the column-0 share goes to address
`N - 1`): SPLIT, in full; its encoding is the byte `0x5E`. -/
def Obligations.SplitResult : Prop :=
  encode .split = [0x5E#8] ∧
  ∀ s : State, exec .split s = .next { s with
    p0 := { en := true, addr := s.addr - 1#8, value := (if s.p1.en then s.p1.value else 0#64) + s.rdData }
    p1 := { en := true, addr := s.addr, value := if s.p2.en then s.p2.value else 0#64 }
    p2 := { en := true, addr := s.addr + 1#8, value := s.rdData }
    addr := s.addr + 1#8
    resultPartA := if s.rdData = 0#64 then s.resultPartA else s.resultPartA + 1#64
    mem := if s.p0.en then s.mem.write s.p0.addr s.p0.value else s.mem
    runningSum := if s.p0.en then s.runningSum + s.p0.value else s.runningSum }

/-- R152's corner at column 0 (D6, 90_conflicts.md C4): the leftward share goes to address 255, with the read value
alone when the window is empty. -/
def Obligations.SplitAtColumnZeroSharesWithLastCell : Prop :=
  ∀ s : State, s.addr = 0#8 → s.p1 = Slot.empty → ∃ t : State, exec .split s = .next t ∧
    t.p0 = { en := true, addr := 255#8, value := s.rdData } ∧
    t.p1.addr = 0#8 ∧
    t.p2 = { en := true, addr := 1#8, value := s.rdData }

/-- R112 with R110 (and D27: the leading slot shifts into the current one): a newline on a busy window drains one
slot, in full. -/
def Obligations.NewlineDrainResult : Prop :=
  ∀ s : State, s.p0.en = true ∨ s.p1.en = true → exec .newline s = .next { s with
    p0 := s.p1
    p1 := s.p2
    p2 := { en := false, addr := 0#8, value := 0#64 }
    mem := if s.p0.en then s.mem.write s.p0.addr s.p0.value else s.mem
    runningSum := if s.p0.en then s.runningSum + s.p0.value else s.runningSum }

/-- R160: a newline on an empty window past column 0 closes the row, in full. -/
def Obligations.NewlineRowEndResult : Prop :=
  encode .newline = [0x0A#8] ∧
  ∀ s : State, s.p0.en = false → s.p1.en = false → s.addr ≠ 0#8 →
    exec .newline s = .next { s with resultPartB := s.runningSum, runningSum := 0#64, addr := 0#8 }

/-- R161's operation: a newline on an empty window at column 0 ends the input; nothing but `fsm` changes. (The rule's
remark that `running_sum` is 0 there is not claimed: after a row of 256 bytes it need not be, R206.) -/
def Obligations.NewlineEndOfInputResult : Prop :=
  ∀ s : State, s.p0.en = false → s.p1.en = false → s.addr = 0#8 →
    ∃ t : State, exec .newline s = .next t ∧ t = { s with fsm := .done } ∧ t.done = true

/-- R170 and R180 (with D9, D17): the one exception. A malformed byte is accepted whatever the window holds, changes
`fsm` alone, and records nothing. -/
def Obligations.MalformedResult : Prop :=
  ∀ (b : Byte) (s : State),
    b ≠ 0x2E#8 → b ≠ 0x53#8 → b ≠ 0x5E#8 → b ≠ 0x0A#8 →
    decodeByte b = .malformed b ∧ encode (.malformed b) = [b] ∧
    exec (.malformed b) s = .next { s with fsm := .error } ∧
    { s with fsm := .error }.error = true ∧
    (s.fsm = .input → s.rdWait = false → s.readyFor b = true)

/-- The frame of the grid bytes (R38's rows for `.`, `S` and `^`): the state machine, the pending-read flag, the read
register, the last row's sum and the environment stay; the split count stays but under SPLIT; the one cell that may
change is the trailing slot's own. -/
def Obligations.GridBytesFrame : Prop :=
  ∀ (i : Instr) (s t : State), i = .pass ∨ i = .start ∨ i = .split → s.mem.wf = true → exec i s = .next t →
    t.fsm = s.fsm ∧ t.rdWait = s.rdWait ∧ t.rdData = s.rdData ∧ t.resultPartB = s.resultPartB ∧
    t.resetLine = s.resetLine ∧ t.producer = s.producer ∧
    (i ≠ .split → t.resultPartA = s.resultPartA) ∧
    (s.p0.en = true → t.mem.read s.p0.addr = s.p0.value) ∧
    (s.p0.en = false → t.runningSum = s.runningSum) ∧
    (∀ a : Addr, (s.p0.en = true → a ≠ s.p0.addr) → t.mem.read a = s.mem.read a)

/-- The frame of NEWLINE in its three cases (R38's rows for the newline): what each case leaves alone, and the one cell
a drain may change. -/
def Obligations.NewlineFrame : Prop :=
  ∀ s t : State, s.mem.wf = true → exec .newline s = .next t →
    t.rdWait = s.rdWait ∧ t.rdData = s.rdData ∧ t.resultPartA = s.resultPartA ∧
    t.resetLine = s.resetLine ∧ t.producer = s.producer ∧
    (s.windowBusy = true →
      t.fsm = s.fsm ∧ t.addr = s.addr ∧ t.resultPartB = s.resultPartB ∧
      (s.p0.en = true → t.mem.read s.p0.addr = s.p0.value) ∧
      (s.p0.en = false → t.runningSum = s.runningSum)) ∧
    (s.windowBusy = false →
      t.p0 = s.p0 ∧ t.p1 = s.p1 ∧ t.p2 = s.p2 ∧
      (s.addr = 0#8 → t.addr = s.addr ∧ t.runningSum = s.runningSum ∧ t.resultPartB = s.resultPartB) ∧
      (s.addr ≠ 0#8 → t.fsm = s.fsm)) ∧
    (∀ a : Addr, (s.windowBusy = true → s.p0.en = true → a ≠ s.p0.addr) → t.mem.read a = s.mem.read a)

/-- R153 (the spec marks it derived): two splits in adjacent columns. The mass the first sends right stays on the
second's column and is not split again. -/
def Obligations.AdjacentSplitsKeepTheCarry : Prop :=
  ∀ (s : State) (q : List Beat), s.mem.wf = true → s.fsm = .input → s.rdWait = false → s.resetLowFor 2 →
    s.producer = .offer 0x5E#8 :: .offer 0x5E#8 :: q →
    ∃ t : State, run 2 s = .next t ∧
      t.p0 = { en := true, addr := s.addr, value := s.p2.val + s.mem.read (s.addr + 1#8) } ∧
      t.p1 = { en := true, addr := s.addr + 1#8, value := s.rdData } ∧
      t.p2 = { en := true, addr := s.addr + 2#8, value := s.mem.read (s.addr + 1#8) } ∧
      t.mem.read (s.addr - 1#8) = s.p1.val + s.rdData ∧
      t.addr = s.addr + 2#8 ∧
      t.resultPartA = s.resultPartA + (if s.rdData = 0#64 then 0#64 else 1#64)
        + (if s.mem.read (s.addr + 1#8) = 0#64 then 0#64 else 1#64) ∧
      t.producer = q

/-! ### The cycles that are no byte's -/

/-- R130 with R36: an edge with `rst = 1`, from any state, in full. The array is not written; `rd_data` reloads from
cell 0 as in every cycle (R52). How the environment moves on is the model's (log entry 5). -/
def Obligations.ResetEdgeOverridesEverything : Prop :=
  ∀ s : State, s.rst = true → step s = .next { s with
    fsm := .reset
    addr := 0#8
    rdWait := false
    rdData := s.mem.read 0#8
    p0 := Slot.empty
    p1 := Slot.empty
    p2 := Slot.empty
    runningSum := 0#64
    resultPartA := 0#64
    resultPartB := 0#64
    resetLine := s.resetLine.tail
    producer := producerNext s.xfer s.producer }

/-- R100, R210 (D15; the producer is the model's, log entry 5): a byte accepted in a reset cycle leaves the producer
and leaves no trace in the core. -/
def Obligations.ResetCycleTransferIsLost : Prop :=
  ∀ (s : State) (b : Byte) (q : List Beat), s.rst = true → s.producer = .offer b :: q → s.inReady = true →
    ∃ t u : State, step s = .next t ∧ step { s with producer := [] } = .next u ∧
      t.producer = q ∧ { t with producer := [] } = u

/-- R133's operation, in full (D13: the cycle that writes the last cell also moves to `INPUT`). How the environment
moves on is the model's (log entry 5). -/
def Obligations.FillCycleResult : Prop :=
  ∀ s : State, s.rst = false → s.fsm = .reset →
    s.inReady = false ∧
    (s.addr = 255#8 → step s = .next { s with
      mem := s.mem.write 255#8 0#64
      fsm := .input
      addr := 0#8
      rdWait := true
      rdData := s.mem.read 0#8
      resetLine := s.resetLine.tail
      producer := producerNext false s.producer }) ∧
    (s.addr ≠ 255#8 → step s = .next { s with
      mem := s.mem.write s.addr 0#64
      addr := s.addr + 1#8
      rdData := s.mem.read (s.addr + 1#8)
      resetLine := s.resetLine.tail
      producer := producerNext false s.producer })

/-- R134 and R23 (D4): the latency bubble clears `rd_wait` and changes nothing else but `rd_data`, which reloads as in
every cycle (R38, R52; log entry 8 reads R134's "nothing else" so, DEDUCED), and only the last fill cycle ever sets it.
How the environment moves on is the model's (log entry 5). -/
def Obligations.BubbleIsTheOnlyReadWait : Prop :=
  (∀ s : State, s.rst = false → s.fsm = .input → s.rdWait = true →
    s.inReady = false ∧ step s = .next { s with
      rdWait := false
      rdData := s.mem.read s.addr
      resetLine := s.resetLine.tail
      producer := producerNext false s.producer }) ∧
  (∀ s t : State, step s = .next t → s.rdWait = false → t.rdWait = true →
    s.rst = false ∧ s.fsm = .reset ∧ s.addr = 255#8) ∧
  (∀ s t : State, step s = .next t → s.rst = false → s.fsm = .input → t.rdWait = false)

/-- R135 (D5, D19): a cycle of `INPUT` with no byte presented changes no register but `rd_data`, which reloads as in
every cycle (R38, R52; log entry 8). How the environment moves on is the model's (log entry 5). -/
def Obligations.IdleCycleHolds : Prop :=
  ∀ s : State, s.rst = false → s.fsm = .input → s.rdWait = false → s.inValid = false →
    step s = .next { s with
      rdData := s.mem.read s.addr
      resetLine := s.resetLine.tail
      producer := producerNext false s.producer }

/-- R136 (D24) and R98: from `DONE` and from `ERROR`, any number of cycles without `rst` changes no register and no
cell, keeps the outputs, leaves an offered byte with the producer, and holds `rd_data` at `mem[addr]`. What the
producer's beats do meanwhile is the model's (log entry 5). -/
def Obligations.TerminalStatesHoldUntilReset : Prop :=
  ∀ (n : Nat) (s : State), s.terminal → s.resetLowFor n →
    ∃ t : State, run n s = .next t ∧
      t = { s with
        rdData := if n = 0 then s.rdData else s.mem.read s.addr
        resetLine := s.resetLine.drop n
        producer := t.producer } ∧
      t.done = s.done ∧ t.error = s.error ∧ t.resultA = s.resultA ∧ t.resultB = s.resultB ∧
      t.inReady = false ∧
      (∀ (b : Byte) (q : List Beat), s.producer = .offer b :: q → t.producer = .offer b :: q)

/-! ### The memory ports -/

/-- R52 and R54 (D3, D21): every cycle, in every state, loads `rd_data` from the new address out of the array as it
stood before the cycle's own write. -/
def Obligations.ReadPortReloadsEveryCycle : Prop :=
  ∀ s t : State, step s = .next t → t.rdData = s.mem.read t.addr

/-- R51 and R50: a cycle changes at most one cell. The fill zeroes the cell at `addr`, a retirement writes the trailing
slot's value at its own address, and no other cycle changes any. -/
def Obligations.OnlyTwoThingsWriteMemory : Prop :=
  ∀ (s t : State) (a : Addr), s.mem.wf = true → step s = .next t → t.mem.read a ≠ s.mem.read a →
    s.rst = false ∧
    ((s.fsm = .reset ∧ a = s.addr ∧ t.mem.read a = 0#64) ∨
     (s.fsm = .input ∧ s.rdWait = false ∧ s.inValid = true ∧ s.p0.en = true ∧ a = s.p0.addr ∧
       t.mem.read a = s.p0.value))

/-- The model's own (log entry 4): the canonical form makes equal arrays equal data. -/
def Obligations.CanonicalMemoriesWithEqualCellsAreEqual : Prop :=
  ∀ m m' : Memory, m.wf = true → m'.wf = true → (∀ a : Addr, m.read a = m'.read a) → m = m'

/-! ### Who changes which register, over all cycles -/

/-- R137 (the spec marks it derived): the transitions of the state machine, all of them. -/
def Obligations.FsmTransitionsAreExact : Prop :=
  ∀ s t : State, step s = .next t →
    t.fsm = if s.rst = true then .reset
      else match s.fsm with
        | .reset => if s.addr = 255#8 then .input else .reset
        | .input =>
          if s.rdWait = true ∨ s.inValid = false then .input
          else if s.inData = 0x2E#8 ∨ s.inData = 0x53#8 ∨ s.inData = 0x5E#8 then .input
          else if s.inData = 0x0A#8 then
            (if s.p0.en = true ∨ s.p1.en = true ∨ s.addr ≠ 0#8 then .input else .done)
          else .error
        | .done => .done
        | .error => .error

/-- R22 (D12): who moves the column address register. -/
def Obligations.AddressRegisterIsExact : Prop :=
  ∀ s t : State, step s = .next t →
    t.addr = if s.rst = true then 0#8
      else if s.fsm = .reset then (if s.addr = 255#8 then 0#8 else s.addr + 1#8)
      else if s.classifies = true ∧ (s.inData = 0x2E#8 ∨ s.inData = 0x53#8 ∨ s.inData = 0x5E#8) then s.addr + 1#8
      else if s.classifies = true ∧ s.inData = 0x0A#8 ∧ s.p0.en = false ∧ s.p1.en = false then 0#8
      else s.addr

/-- R27: `running_sum` takes every retirement's value, goes to 0 when a row closes or on reset, and changes in no other
cycle. -/
def Obligations.RunningSumIsExact : Prop :=
  ∀ s t : State, step s = .next t →
    t.runningSum = if s.rst = true then 0#64
      else if s.classifies = true ∧
          (s.inData = 0x2E#8 ∨ s.inData = 0x53#8 ∨ s.inData = 0x5E#8 ∨
            (s.inData = 0x0A#8 ∧ (s.p0.en = true ∨ s.p1.en = true))) then
        (if s.p0.en = true then s.runningSum + s.p0.value else s.runningSum)
      else if s.classifies = true ∧ s.inData = 0x0A#8 ∧ s.addr ≠ 0#8 then 0#64
      else s.runningSum

/-- R28 and R152: `result_part_a` counts the split bytes whose read value was nonzero, and nothing else but reset
changes it. -/
def Obligations.SplitCountIsExact : Prop :=
  ∀ s t : State, step s = .next t →
    t.resultPartA = if s.rst = true then 0#64
      else if s.classifies = true ∧ s.inData = 0x5E#8 ∧ s.rdData ≠ 0#64 then s.resultPartA + 1#64
      else s.resultPartA

/-- R29: `result_part_b` is replaced by the row's `running_sum` when a row closes, and nothing else but reset changes
it. -/
def Obligations.LastRowSumIsExact : Prop :=
  ∀ s t : State, step s = .next t →
    t.resultPartB = if s.rst = true then 0#64
      else if s.classifies = true ∧ s.inData = 0x0A#8 ∧ s.p0.en = false ∧ s.p1.en = false ∧ s.addr ≠ 0#8 then
        s.runningSum
      else s.resultPartB

/-- R113 (D5): a cycle that neither advances nor drains keeps the window and retires nothing: outside the fill it keeps
the array, and `running_sum` at most goes to 0 (the row's close). A reset cycle empties the window. -/
def Obligations.WindowHoldsOtherwise : Prop :=
  ∀ s t : State, step s = .next t →
    (s.rst = true → t.p0 = Slot.empty ∧ t.p1 = Slot.empty ∧ t.p2 = Slot.empty ∧ t.mem = s.mem) ∧
    (s.rst = false →
      ¬ (s.classifies = true ∧
          (s.inData = 0x2E#8 ∨ s.inData = 0x53#8 ∨ s.inData = 0x5E#8 ∨
            (s.inData = 0x0A#8 ∧ (s.p0.en = true ∨ s.p1.en = true)))) →
      t.p0 = s.p0 ∧ t.p1 = s.p1 ∧ t.p2 = s.p2 ∧ (s.fsm ≠ .reset → t.mem = s.mem) ∧
      (t.runningSum = s.runningSum ∨ t.runningSum = 0#64))

/-! ### The channel and the outputs -/

/-- R95 (D10, D15): `in_ready`, on the registers and the presented byte alone. -/
def Obligations.InReadyIsExact : Prop :=
  ∀ (s : State) (d : Byte),
    (s.readyFor d = true ↔
      s.fsm = .input ∧ s.rdWait = false ∧ ¬ (d = 0x0A#8 ∧ (s.p0.en = true ∨ s.p1.en = true))) ∧
    s.inReady = s.readyFor s.inData ∧
    (∀ (r : List Bool) (q : List Beat), { s with resetLine := r, producer := q }.readyFor d = s.readyFor d)

/-- R34 (D14): the output equations. -/
def Obligations.OutputEquations : Prop :=
  ∀ s : State,
    (s.done = true ↔ s.fsm = .done) ∧ (s.error = true ↔ s.fsm = .error) ∧
    s.resultA = s.resultPartA ∧ s.resultB = s.resultPartB

/-- R90: an offered byte passes to the core at an edge exactly when `in_valid` and `in_ready` both hold in the cycle,
and one byte at a time; until then it stays presented (R91). The producer is the model's (log entry 5). -/
def Obligations.TransferIffValidAndReady : Prop :=
  ∀ (s t : State) (b : Byte) (q : List Beat), s.producer = .offer b :: q → step s = .next t →
    s.inValid = true ∧ s.inData = b ∧
    (s.inReady = true → t.producer = q) ∧
    (s.inReady = false → t.producer = .offer b :: q ∧ t.inValid = true ∧ t.inData = b)

/-- R91 of the model's producer (log entry 5): one that never pulses a byte keeps a byte that was not accepted presented
in the next cycle, and keeps its duty. -/
def Obligations.DutifulProducerHoldsItsByte : Prop :=
  ∀ s t : State, s.dutiful = true → step s = .next t →
    t.dutiful = true ∧
    (s.inValid = true → s.inReady = false → t.inValid = true ∧ t.inData = s.inData)

/-- The model's own (log entry 5): its environment can drive every waveform of the input ports, one entry a cycle,
whatever the core answers, so it also covers a producer that breaks R91 (R99) and any placement of `rst`. -/
def Obligations.EveryInputWaveformCanBeDriven : Prop :=
  ∀ (ws : List Ports) (s : State) (k : Nat) (w : Ports), ws[k]? = some w →
    ∃ t : State, run k (s.driven ws) = .next t ∧ t.ports = w

/-- R155, R205 and R97 (the cycle counts are marked derived there): an offered newline is held back until the enabled
slot nearest the leading end has left the window, and is then accepted with the window empty, every enabled slot written
back and summed. The count goes by that slot's position and not by how many slots are enabled: 3 cycles for `p[2]`, else
2 for `p[1]`, else 1 for `p[0]`, else none. With `p[1]` alone it is 2 (vectors N2 and L1-1). -/
def Obligations.NewlineIsAcceptedAfterTheDrain : Prop :=
  ∀ (s : State) (q : List Beat), s.Legal → s.fsm = .input → s.rdWait = false → s.resetLowFor 3 →
    s.producer = .offer 0x0A#8 :: q →
    ∃ d : Nat, d = (if s.p2.en then 3 else if s.p1.en then 2 else if s.p0.en then 1 else 0) ∧
      (∀ j : Nat, j < d → ∃ u : State, run j s = .next u ∧ u.inReady = false ∧ u.producer = s.producer) ∧
      ∃ t : State, run d s = .next t ∧ t.inReady = true ∧ t.producer = s.producer ∧ t.windowEmpty ∧
        t.fsm = .input ∧ t.rdWait = false ∧ t.addr = s.addr ∧
        t.resultPartA = s.resultPartA ∧ t.resultPartB = s.resultPartB ∧
        t.runningSum = s.runningSum + s.p0.val + s.p1.val + s.p2.val ∧
        (∀ a : Addr, t.mem.read a =
          if s.p2.en = true ∧ a = s.p2.addr then s.p2.value
          else if s.p1.en = true ∧ a = s.p1.addr then s.p1.value
          else if s.p0.en = true ∧ a = s.p0.addr then s.p0.value
          else s.mem.read a)

/-- R115, R160 and R211 (derived in the spec): an offered newline past column 0 closes its row in at most 4 cycles, the
row's sum being every value retired before plus the slots still in flight. -/
def Obligations.RowClosesWithItsWholeSum : Prop :=
  ∀ (s : State) (q : List Beat), s.Legal → s.fsm = .input → s.rdWait = false → s.resetLowFor 4 →
    s.producer = .offer 0x0A#8 :: q → s.addr ≠ 0#8 →
    ∃ (d : Nat) (t : State), d ≤ 3 ∧ run (d + 1) s = .next t ∧
      t.resultPartB = s.runningSum + s.p0.val + s.p1.val + s.p2.val ∧
      t.runningSum = 0#64 ∧ t.addr = 0#8 ∧ t.windowEmpty ∧ t.fsm = .input ∧ t.rdWait = false ∧
      t.rdData = t.mem.read 0#8 ∧ t.resultPartA = s.resultPartA ∧ t.producer = q

/-! ### Invariants -/

/-- Every cycle keeps a state legal, whatever the environment does: the memory canonical (log entry 4), a disabled slot
`EMPTY` (D8), R116, and what R36, R23 and R133 say of the fill and the pending read. -/
def Obligations.EveryStepKeepsLegality : Prop :=
  ∀ s t : State, s.Legal → step s = .next t → t.Legal

/-- R37: power-on is legal, with any contents of the array and of `rd_data` and any environment; and so is the model's
own reset state (log entries 3, 4 and 5). -/
def Obligations.PowerOnIsLegal : Prop :=
  State.reset.Legal ∧
  ∀ (m : Memory) (d : Word) (r : List Bool) (q : List Beat), m.wf = true →
    { State.reset with mem := m, rdData := d, resetLine := r, producer := q }.Legal

/-- R26 and R60 (derived in the spec): with a producer that keeps R91, every cycle keeps the window aligned and the read
fresh, but while a newline waits. -/
def Obligations.EveryStepKeepsStreaming : Prop :=
  ∀ s t : State, s.Streaming → step s = .next t → t.Streaming

/-- Power-on, with any contents of the array and of `rd_data` (R37) and any producer that keeps R91, has the streaming
invariant. -/
def Obligations.PowerOnIsStreaming : Prop :=
  ∀ (m : Memory) (d : Word) (r : List Bool) (q : List Beat), m.wf = true → q.all Beat.dutiful = true →
    { State.reset with mem := m, rdData := d, resetLine := r, producer := q }.Streaming

/-- R26 and R60 (derived in the spec): a cycle that classifies a grid byte sees the window on columns `c - 2`, `c - 1`
and `c`, and `rd_data` is cell `c`. -/
def Obligations.GridByteCyclesSeeTheirColumn : Prop :=
  ∀ s : State, s.Streaming → s.classifies = true →
    s.inData = 0x2E#8 ∨ s.inData = 0x53#8 ∨ s.inData = 0x5E#8 →
    (s.p1.en = true → s.p1.addr = s.addr - 1#8) ∧
    (s.p2.en = true → s.p2.addr = s.addr ∧ s.p1.en = true) ∧
    (s.p0.en = true → s.p0.addr = s.addr - 2#8) ∧
    s.rdData = s.mem.read s.addr

/-! ### Mass -/

/-- R114's table for the grid bytes (derived in the spec): PASS keeps the total mass, START puts 1 in place of the
read value and the carry, SPLIT adds the read value, and at a row's start it also displaces the cell at `c - 1`. All
modulo `2^W`. The two split clauses read R114's row "`^` at `c = 0`" as an empty current slot (log entry 9, DEDUCED):
they differ from a reading by `addr` alone where `addr` has wrapped to 0 with the window full (R206), and there this
says `+r`. -/
def Obligations.GridBytesChangeMassAsTabled : Prop :=
  ∀ s t : State, s.Streaming → s.classifies = true → step s = .next t →
    (s.inData = 0x2E#8 → t.mass = s.mass) ∧
    (s.inData = 0x53#8 → t.mass = s.mass + 1#64 - s.rdData - s.p2.val) ∧
    (s.inData = 0x5E#8 → s.p1.en = true → t.mass = s.mass + s.rdData) ∧
    (s.inData = 0x5E#8 → s.p1.en = false → t.mass = s.mass + s.rdData - s.mem.read (s.addr - 1#8))

/-- R114's table for a drain (derived in the spec): it keeps the total mass, but that a carry past the row's end
displaces the cell it lands on. The slots' addresses are taken to be different, as R26 has them. -/
def Obligations.DrainChangesMassAsTabled : Prop :=
  ∀ s t : State, s.Legal → s.classifies = true → s.inData = 0x0A#8 → s.windowBusy = true →
    (s.p0.en = true → s.p1.en = true → s.p0.addr ≠ s.p1.addr) →
    (s.p0.en = true → s.p2.en = true → s.p0.addr ≠ s.p2.addr) →
    (s.p1.en = true → s.p2.en = true → s.p1.addr ≠ s.p2.addr) →
    step s = .next t →
    t.mass = s.mass - (if s.p2.en then s.mem.read s.p2.addr else 0#64)

/-- R114's last row (derived in the spec), for the cycles in which neither `rst` nor the fill acts: the bubble,
idling, an accepted newline, a malformed byte and the terminal states keep the total mass. That R114's "any other
cycle" leaves out reset and fill cycles is log entry 9 (DEDUCED). -/
def Obligations.OtherCyclesKeepMass : Prop :=
  ∀ s t : State, s.rst = false → s.fsm ≠ .reset → step s = .next t →
    (s.classifies = true → s.inData ≠ 0x2E#8 ∧ s.inData ≠ 0x53#8 ∧ s.inData ≠ 0x5E#8 ∧
      (s.inData = 0x0A#8 → s.windowBusy = false)) →
    t.mass = s.mass

/-! ### Boot, reset and timing -/

/-- R200, R201 and R133's count (derived in the spec): from the first fill cycle, with any contents of the array and of
`rd_data`, 256 fill cycles and one bubble lead to the state of R201's table, and no offered byte is accepted on the
way. -/
def Obligations.BootReachesTheFirstConsumingState : Prop :=
  ∀ s : State, s.Legal → s.fsm = .reset → s.addr = 0#8 → s.resetLowFor 257 →
    (∀ j : Nat, j ≤ 256 → ∃ u : State, run j s = .next u ∧ u.inReady = false ∧
      (j < 256 → u.fsm = .reset ∧ u.addr.toNat = j) ∧
      (j = 256 → u.fsm = .input ∧ u.rdWait = true)) ∧
    ∃ t : State, run 257 s = .next t ∧ t.FirstConsuming ∧ t.resetLine = s.resetLine.drop 257 ∧
      (∀ (b : Byte) (q : List Beat), s.producer = .offer b :: q → t.producer = .offer b :: q)

/-- R202 (derived in the spec): the reset is idempotent. Two cores in any two states and with any two arrays, reset in
the same cycle with no byte presented in it (R210) and driven alike from then on, are in one and the same state after
the fill and the bubble, so everything after is the same too. -/
def Obligations.ResetForgetsTheInterruptedRun : Prop :=
  ∀ s s' : State, s.mem.wf = true → s'.mem.wf = true →
    s.resetLine = s'.resetLine → s.producer = s'.producer →
    s.rst = true → s.inValid = false → (∀ j : Nat, j < 257 → s.resetLine.getD (j + 1) false = false) →
    ∃ t : State, run 258 s = .next t ∧ run 258 s' = .next t ∧ t.FirstConsuming

/-- R212, one cycle (derived in the spec): with a producer that keeps R91, a pause is absorbed: nothing changes but the
environment, `rd_data` included. -/
def Obligations.PausesAreAbsorbed : Prop :=
  ∀ (s : State) (d : Byte) (q : List Beat), s.Streaming → s.fsm = .input → s.rdWait = false → s.rst = false →
    s.producer = .pause d :: q →
    step s = .next { s with resetLine := s.resetLine.tail, producer := q }

/-- R212 (derived in the spec), from a state past the bubble: results do not depend on timing. Whatever pauses a
producer that keeps R91 makes, the run without them is matched: every state it passes through is reached with the
pauses too, in at least as many cycles, equal in every register and every cell and with the same bytes left to
present. A producer that keeps R91 does not pause inside a drain; for one that does, IdleCycleHolds says that the
cycle holds. -/
def Obligations.ResultsDoNotDependOnPauses : Prop :=
  ∀ (n : Nat) (s : State), s.Streaming → s.fsm ≠ .reset → s.rdWait = false → s.resetLine = [] →
    ∃ (m : Nat) (t u : State), n ≤ m ∧ run m s = .next t ∧
      run n { s with producer := offers s.producer } = .next u ∧
      offers t.producer = u.producer ∧ { t with producer := [] } = { u with producer := [] }
end

