-- ==== Sys2Proof/Laws/Memory.lean ====
section
/-! SUPPORT. What the memory operations do: a read after a write, and that every operation keeps the canonical form. -/

namespace Sys2Proof.Machine

theorem Memory.wfFrom_cons {lo a : Nat} {v : Word} {m : Memory} :
    Memory.wfFrom lo ((a, v) :: m) = true ↔
      lo ≤ a ∧ a < Config.memDepth ∧ v ≠ unlistedCell ∧ Memory.wfFrom (a + 1) m = true := by
  simp [Memory.wfFrom, and_assoc]

/-- A canonical tail is canonical from any lower address. -/
theorem Memory.wfFrom_mono {lo lo' : Nat} {m : Memory} (h : Memory.wfFrom lo m = true) (hle : lo' ≤ lo) :
    Memory.wfFrom lo' m = true := by
  cases m with
  | nil => rfl
  | cons c m =>
    obtain ⟨a, v⟩ := c
    rw [Memory.wfFrom_cons] at h ⊢
    exact ⟨hle.trans h.1, h.2⟩

theorem Memory.wf_of_wfFrom {lo : Nat} {m : Memory} (h : Memory.wfFrom lo m = true) : m.wf = true :=
  Memory.wfFrom_mono h (Nat.zero_le lo)

/-- Below its first possible address a canonical list holds nothing. -/
theorem Memory.cellAt_of_lt {lo a : Nat} {m : Memory} (h : Memory.wfFrom lo m = true) (ha : a < lo) :
    Memory.cellAt m a = unlistedCell := by
  induction m generalizing lo with
  | nil => rfl
  | cons c m ih =>
    obtain ⟨b, w⟩ := c
    rw [Memory.wfFrom_cons] at h
    have hab : a ≠ b := by omega
    simp only [Memory.cellAt, if_neg hab]
    exact ih h.2.2.2 (by omega)

theorem Memory.cellAt_setCell {lo : Nat} {m : Memory} (h : Memory.wfFrom lo m = true) (a : Nat) (v : Word) (b : Nat) :
    Memory.cellAt (Memory.setCell m a v) b = if b = a then v else Memory.cellAt m b := by
  induction m generalizing lo with
  | nil =>
    by_cases hv : v = unlistedCell
    · simp [Memory.setCell, Memory.cellAt, hv]
    · simp [Memory.setCell, Memory.cellAt, hv]
  | cons c m ih =>
    obtain ⟨x, w⟩ := c
    have hc := Memory.wfFrom_cons.mp h
    have tail : ∀ n, n < x + 1 → Memory.cellAt m n = unlistedCell := fun n hn => Memory.cellAt_of_lt hc.2.2.2 hn
    unfold Memory.setCell
    by_cases h1 : a < x
    · rw [if_pos h1]
      by_cases hv : v = unlistedCell
      · rw [if_pos hv]
        by_cases hb : b = a
        · subst hb
          have : b ≠ x := by omega
          simp [Memory.cellAt, this, tail b (by omega), hv]
        · simp [hb]
      · rw [if_neg hv]
        simp [Memory.cellAt]
    · rw [if_neg h1]
      by_cases h2 : a = x
      · subst h2
        rw [if_pos rfl]
        by_cases hv : v = unlistedCell
        · rw [if_pos hv]
          by_cases hb : b = a
          · subst hb
            simp [tail b (by omega), hv]
          · simp [Memory.cellAt, hb]
        · rw [if_neg hv]
          by_cases hb : b = a <;> simp [Memory.cellAt, hb]
      · rw [if_neg h2]
        by_cases hbx : b = x
        · subst hbx
          have : b ≠ a := fun e => h2 e.symm
          simp [Memory.cellAt, this]
        · simp only [Memory.cellAt, if_neg hbx]
          exact ih hc.2.2.2

theorem Memory.wfFrom_setCell {lo : Nat} {m : Memory} (h : Memory.wfFrom lo m = true) {a : Nat} (hlo : lo ≤ a)
    (ha : a < Config.memDepth) (v : Word) : Memory.wfFrom lo (Memory.setCell m a v) = true := by
  induction m generalizing lo with
  | nil =>
    by_cases hv : v = unlistedCell
    · simp [Memory.setCell, hv, Memory.wfFrom]
    · simp only [Memory.setCell, if_neg hv]
      exact Memory.wfFrom_cons.mpr ⟨hlo, ha, hv, rfl⟩
  | cons c m ih =>
    obtain ⟨x, w⟩ := c
    have hc := Memory.wfFrom_cons.mp h
    unfold Memory.setCell
    by_cases h1 : a < x
    · rw [if_pos h1]
      by_cases hv : v = unlistedCell
      · rw [if_pos hv]; exact h
      · rw [if_neg hv]
        exact Memory.wfFrom_cons.mpr ⟨hlo, ha, hv, Memory.wfFrom_cons.mpr ⟨h1, hc.2⟩⟩
    · rw [if_neg h1]
      by_cases h2 : a = x
      · rw [if_pos h2]
        subst h2
        by_cases hv : v = unlistedCell
        · rw [if_pos hv]; exact Memory.wfFrom_mono hc.2.2.2 (by omega)
        · rw [if_neg hv]; exact Memory.wfFrom_cons.mpr ⟨hlo, ha, hv, hc.2.2.2⟩
      · rw [if_neg h2]
        exact Memory.wfFrom_cons.mpr ⟨hc.1, hc.2.1, hc.2.2.1, ih hc.2.2.2 (by omega)⟩

/-- Writing zero at the lowest possible address leaves a list whose addresses lie above it: one cell more is filled. -/
theorem Memory.wfFrom_fill {lo : Nat} {m : Memory} (h : Memory.wfFrom lo m = true) :
    Memory.wfFrom (lo + 1) (Memory.setCell m lo unlistedCell) = true := by
  cases m with
  | nil => simp [Memory.setCell, Memory.wfFrom]
  | cons c m =>
    obtain ⟨x, w⟩ := c
    have hc := Memory.wfFrom_cons.mp h
    unfold Memory.setCell
    by_cases h1 : lo < x
    · simp only [if_pos h1, if_true]
      exact Memory.wfFrom_cons.mpr ⟨h1, hc.2⟩
    · have h2 : lo = x := by omega
      subst h2
      simp only [if_neg h1, if_true]
      exact hc.2.2.2

/-- Past the last cell a canonical list is empty. -/
theorem Memory.eq_nil_of_wfFrom_depth {m : Memory} (h : Memory.wfFrom Config.memDepth m = true) : m = [] := by
  cases m with
  | nil => rfl
  | cons c m =>
    obtain ⟨x, w⟩ := c
    have hc := Memory.wfFrom_cons.mp h
    omega

theorem Addr.toNat_lt_depth (a : Addr) : a.toNat < Config.memDepth :=
  a.isLt

/-- A read after a write: the written cell gives the written value, every other cell what it gave before. -/
theorem Memory.read_write {m : Memory} (h : m.wf = true) (a : Addr) (v : Word) (b : Addr) :
    (m.write a v).read b = if b = a then v else m.read b := by
  have e : (b.toNat = a.toNat) ↔ b = a := BitVec.toNat_inj
  unfold Memory.read Memory.write
  rw [Memory.cellAt_setCell h]
  by_cases hb : b = a
  · rw [if_pos hb, if_pos (e.mpr hb)]
  · rw [if_neg hb, if_neg (fun c => hb (e.mp c))]

theorem Memory.read_write_same {m : Memory} (h : m.wf = true) (a : Addr) (v : Word) : (m.write a v).read a = v := by
  rw [Memory.read_write h, if_pos rfl]

theorem Memory.read_write_other {m : Memory} (h : m.wf = true) {a b : Addr} (v : Word) (hab : b ≠ a) :
    (m.write a v).read b = m.read b := by
  rw [Memory.read_write h, if_neg hab]

/-- A write keeps the canonical form. -/
theorem Memory.wf_write {m : Memory} (h : m.wf = true) (a : Addr) (v : Word) : (m.write a v).wf = true :=
  Memory.wfFrom_setCell h (Nat.zero_le _) (Addr.toNat_lt_depth a) v

@[simp] theorem Memory.read_nil (a : Addr) : Memory.read [] a = 0#64 := rfl

/-- The memory at power-on is in canonical form. -/
theorem reset_memory_wf : State.reset.mem.wf = true := rfl

end Sys2Proof.Machine
end

