-- ==== Sys2Proof/Laws/PerInstr.lean ====
section
/-! SUPPORT. Statements about every instruction, one lemma per constructor of `Instr`. -/

namespace Sys2Proof.Laws

/-- A well-formed instruction's byte decodes to it, and the bytes after it are left over. -/
def DecodeEncode.Statement (i : Instr) : Prop :=
  i.wellFormed = true → ∀ rest : List Byte, decode (encode i ++ rest) = .ok (i, rest)

theorem DecodeEncode.pass : DecodeEncode.Statement .pass := fun _ _ => rfl

theorem DecodeEncode.start : DecodeEncode.Statement .start := fun _ _ => rfl

theorem DecodeEncode.split : DecodeEncode.Statement .split := fun _ _ => rfl

theorem DecodeEncode.newline : DecodeEncode.Statement .newline := fun _ _ => rfl

theorem DecodeEncode.malformed (b : Byte) : DecodeEncode.Statement (.malformed b) := by
  intro h rest
  simp only [Instr.wellFormed, recognisedBytes, Bool.not_eq_true', List.contains_eq_mem, decide_eq_false_iff_not,
    List.mem_cons, List.not_mem_nil, or_false, not_or] at h
  obtain ⟨h1, h2, h3, h4⟩ := h
  simp [encode, encodeByte, decode, decodeByte, bytePass, byteStart, byteSplit, byteNewline, h1, h2, h3, h4]

end Sys2Proof.Laws
end

