-- ==== Sys2Proof/Laws/State.lean ====
section
/-! SUPPORT. For each named update of the state, one lemma per field, true by `rfl`, so that no later proof unfolds a
record update; and one lemma per operand and per port. -/

namespace Sys2Proof.Machine

/-! ### Retire -/

@[simp] theorem retire_fsm (s : State) : (retire s).fsm = s.fsm := rfl
@[simp] theorem retire_addr (s : State) : (retire s).addr = s.addr := rfl
@[simp] theorem retire_rdWait (s : State) : (retire s).rdWait = s.rdWait := rfl
@[simp] theorem retire_rdData (s : State) : (retire s).rdData = s.rdData := rfl
@[simp] theorem retire_p0 (s : State) : (retire s).p0 = s.p0 := rfl
@[simp] theorem retire_p1 (s : State) : (retire s).p1 = s.p1 := rfl
@[simp] theorem retire_p2 (s : State) : (retire s).p2 = s.p2 := rfl
@[simp] theorem retire_runningSum (s : State) : (retire s).runningSum = if s.p0.en then s.runningSum + s.p0.value else s.runningSum := rfl
@[simp] theorem retire_resultPartA (s : State) : (retire s).resultPartA = s.resultPartA := rfl
@[simp] theorem retire_resultPartB (s : State) : (retire s).resultPartB = s.resultPartB := rfl
@[simp] theorem retire_mem (s : State) : (retire s).mem = if s.p0.en then s.mem.write s.p0.addr s.p0.value else s.mem := rfl
@[simp] theorem retire_resetLine (s : State) : (retire s).resetLine = s.resetLine := rfl
@[simp] theorem retire_producer (s : State) : (retire s).producer = s.producer := rfl

/-! ### Advance -/

@[simp] theorem advance_fsm (t : Slot) (v : Word) (lead : Slot) (s : State) : (advance t v lead s).fsm = s.fsm := rfl
@[simp] theorem advance_addr (t : Slot) (v : Word) (lead : Slot) (s : State) : (advance t v lead s).addr = s.addr := rfl
@[simp] theorem advance_rdWait (t : Slot) (v : Word) (lead : Slot) (s : State) : (advance t v lead s).rdWait = s.rdWait := rfl
@[simp] theorem advance_rdData (t : Slot) (v : Word) (lead : Slot) (s : State) : (advance t v lead s).rdData = s.rdData := rfl
@[simp] theorem advance_p0 (t : Slot) (v : Word) (lead : Slot) (s : State) : (advance t v lead s).p0 = t := rfl
@[simp] theorem advance_p1 (t : Slot) (v : Word) (lead : Slot) (s : State) : (advance t v lead s).p1 = Slot.live s.addr v := rfl
@[simp] theorem advance_p2 (t : Slot) (v : Word) (lead : Slot) (s : State) : (advance t v lead s).p2 = lead := rfl
@[simp] theorem advance_runningSum (t : Slot) (v : Word) (lead : Slot) (s : State) : (advance t v lead s).runningSum = if s.p0.en then s.runningSum + s.p0.value else s.runningSum := rfl
@[simp] theorem advance_resultPartA (t : Slot) (v : Word) (lead : Slot) (s : State) : (advance t v lead s).resultPartA = s.resultPartA := rfl
@[simp] theorem advance_resultPartB (t : Slot) (v : Word) (lead : Slot) (s : State) : (advance t v lead s).resultPartB = s.resultPartB := rfl
@[simp] theorem advance_mem (t : Slot) (v : Word) (lead : Slot) (s : State) : (advance t v lead s).mem = if s.p0.en then s.mem.write s.p0.addr s.p0.value else s.mem := rfl
@[simp] theorem advance_resetLine (t : Slot) (v : Word) (lead : Slot) (s : State) : (advance t v lead s).resetLine = s.resetLine := rfl
@[simp] theorem advance_producer (t : Slot) (v : Word) (lead : Slot) (s : State) : (advance t v lead s).producer = s.producer := rfl

/-! ### Drain -/

@[simp] theorem drain_fsm (s : State) : (drain s).fsm = s.fsm := rfl
@[simp] theorem drain_addr (s : State) : (drain s).addr = s.addr := rfl
@[simp] theorem drain_rdWait (s : State) : (drain s).rdWait = s.rdWait := rfl
@[simp] theorem drain_rdData (s : State) : (drain s).rdData = s.rdData := rfl
@[simp] theorem drain_p0 (s : State) : (drain s).p0 = s.p1 := rfl
@[simp] theorem drain_p1 (s : State) : (drain s).p1 = s.p2 := rfl
@[simp] theorem drain_p2 (s : State) : (drain s).p2 = Slot.empty := rfl
@[simp] theorem drain_runningSum (s : State) : (drain s).runningSum = if s.p0.en then s.runningSum + s.p0.value else s.runningSum := rfl
@[simp] theorem drain_resultPartA (s : State) : (drain s).resultPartA = s.resultPartA := rfl
@[simp] theorem drain_resultPartB (s : State) : (drain s).resultPartB = s.resultPartB := rfl
@[simp] theorem drain_mem (s : State) : (drain s).mem = if s.p0.en then s.mem.write s.p0.addr s.p0.value else s.mem := rfl
@[simp] theorem drain_resetLine (s : State) : (drain s).resetLine = s.resetLine := rfl
@[simp] theorem drain_producer (s : State) : (drain s).producer = s.producer := rfl

/-! ### Next column -/

@[simp] theorem nextColumn_fsm (s : State) : (nextColumn s).fsm = s.fsm := rfl
@[simp] theorem nextColumn_addr (s : State) : (nextColumn s).addr = s.addr + 1#8 := rfl
@[simp] theorem nextColumn_rdWait (s : State) : (nextColumn s).rdWait = s.rdWait := rfl
@[simp] theorem nextColumn_rdData (s : State) : (nextColumn s).rdData = s.rdData := rfl
@[simp] theorem nextColumn_p0 (s : State) : (nextColumn s).p0 = s.p0 := rfl
@[simp] theorem nextColumn_p1 (s : State) : (nextColumn s).p1 = s.p1 := rfl
@[simp] theorem nextColumn_p2 (s : State) : (nextColumn s).p2 = s.p2 := rfl
@[simp] theorem nextColumn_runningSum (s : State) : (nextColumn s).runningSum = s.runningSum := rfl
@[simp] theorem nextColumn_resultPartA (s : State) : (nextColumn s).resultPartA = s.resultPartA := rfl
@[simp] theorem nextColumn_resultPartB (s : State) : (nextColumn s).resultPartB = s.resultPartB := rfl
@[simp] theorem nextColumn_mem (s : State) : (nextColumn s).mem = s.mem := rfl
@[simp] theorem nextColumn_resetLine (s : State) : (nextColumn s).resetLine = s.resetLine := rfl
@[simp] theorem nextColumn_producer (s : State) : (nextColumn s).producer = s.producer := rfl

/-! ### Counting a split -/

@[simp] theorem countSplit_fsm (s : State) : (countSplit s).fsm = s.fsm := rfl
@[simp] theorem countSplit_addr (s : State) : (countSplit s).addr = s.addr := rfl
@[simp] theorem countSplit_rdWait (s : State) : (countSplit s).rdWait = s.rdWait := rfl
@[simp] theorem countSplit_rdData (s : State) : (countSplit s).rdData = s.rdData := rfl
@[simp] theorem countSplit_p0 (s : State) : (countSplit s).p0 = s.p0 := rfl
@[simp] theorem countSplit_p1 (s : State) : (countSplit s).p1 = s.p1 := rfl
@[simp] theorem countSplit_p2 (s : State) : (countSplit s).p2 = s.p2 := rfl
@[simp] theorem countSplit_runningSum (s : State) : (countSplit s).runningSum = s.runningSum := rfl
@[simp] theorem countSplit_resultPartA (s : State) : (countSplit s).resultPartA = if s.rdData ≠ 0#64 then s.resultPartA + 1#64 else s.resultPartA := rfl
@[simp] theorem countSplit_resultPartB (s : State) : (countSplit s).resultPartB = s.resultPartB := rfl
@[simp] theorem countSplit_mem (s : State) : (countSplit s).mem = s.mem := rfl
@[simp] theorem countSplit_resetLine (s : State) : (countSplit s).resetLine = s.resetLine := rfl
@[simp] theorem countSplit_producer (s : State) : (countSplit s).producer = s.producer := rfl

/-! ### Closing a row -/

@[simp] theorem closeRow_fsm (s : State) : (closeRow s).fsm = s.fsm := rfl
@[simp] theorem closeRow_addr (s : State) : (closeRow s).addr = 0#8 := rfl
@[simp] theorem closeRow_rdWait (s : State) : (closeRow s).rdWait = s.rdWait := rfl
@[simp] theorem closeRow_rdData (s : State) : (closeRow s).rdData = s.rdData := rfl
@[simp] theorem closeRow_p0 (s : State) : (closeRow s).p0 = s.p0 := rfl
@[simp] theorem closeRow_p1 (s : State) : (closeRow s).p1 = s.p1 := rfl
@[simp] theorem closeRow_p2 (s : State) : (closeRow s).p2 = s.p2 := rfl
@[simp] theorem closeRow_runningSum (s : State) : (closeRow s).runningSum = 0#64 := rfl
@[simp] theorem closeRow_resultPartA (s : State) : (closeRow s).resultPartA = s.resultPartA := rfl
@[simp] theorem closeRow_resultPartB (s : State) : (closeRow s).resultPartB = s.runningSum := rfl
@[simp] theorem closeRow_mem (s : State) : (closeRow s).mem = s.mem := rfl
@[simp] theorem closeRow_resetLine (s : State) : (closeRow s).resetLine = s.resetLine := rfl
@[simp] theorem closeRow_producer (s : State) : (closeRow s).producer = s.producer := rfl

/-! ### Ending the input -/

@[simp] theorem endInput_fsm (s : State) : (endInput s).fsm = .done := rfl
@[simp] theorem endInput_addr (s : State) : (endInput s).addr = 0#8 := rfl
@[simp] theorem endInput_rdWait (s : State) : (endInput s).rdWait = s.rdWait := rfl
@[simp] theorem endInput_rdData (s : State) : (endInput s).rdData = s.rdData := rfl
@[simp] theorem endInput_p0 (s : State) : (endInput s).p0 = s.p0 := rfl
@[simp] theorem endInput_p1 (s : State) : (endInput s).p1 = s.p1 := rfl
@[simp] theorem endInput_p2 (s : State) : (endInput s).p2 = s.p2 := rfl
@[simp] theorem endInput_runningSum (s : State) : (endInput s).runningSum = s.runningSum := rfl
@[simp] theorem endInput_resultPartA (s : State) : (endInput s).resultPartA = s.resultPartA := rfl
@[simp] theorem endInput_resultPartB (s : State) : (endInput s).resultPartB = s.resultPartB := rfl
@[simp] theorem endInput_mem (s : State) : (endInput s).mem = s.mem := rfl
@[simp] theorem endInput_resetLine (s : State) : (endInput s).resetLine = s.resetLine := rfl
@[simp] theorem endInput_producer (s : State) : (endInput s).producer = s.producer := rfl

/-! ### The exception -/

@[simp] theorem raiseMalformed_fsm (b : Byte) (s : State) : (raiseMalformed b s).fsm = .error := rfl
@[simp] theorem raiseMalformed_addr (b : Byte) (s : State) : (raiseMalformed b s).addr = s.addr := rfl
@[simp] theorem raiseMalformed_rdWait (b : Byte) (s : State) : (raiseMalformed b s).rdWait = s.rdWait := rfl
@[simp] theorem raiseMalformed_rdData (b : Byte) (s : State) : (raiseMalformed b s).rdData = s.rdData := rfl
@[simp] theorem raiseMalformed_p0 (b : Byte) (s : State) : (raiseMalformed b s).p0 = s.p0 := rfl
@[simp] theorem raiseMalformed_p1 (b : Byte) (s : State) : (raiseMalformed b s).p1 = s.p1 := rfl
@[simp] theorem raiseMalformed_p2 (b : Byte) (s : State) : (raiseMalformed b s).p2 = s.p2 := rfl
@[simp] theorem raiseMalformed_runningSum (b : Byte) (s : State) : (raiseMalformed b s).runningSum = s.runningSum := rfl
@[simp] theorem raiseMalformed_resultPartA (b : Byte) (s : State) : (raiseMalformed b s).resultPartA = s.resultPartA := rfl
@[simp] theorem raiseMalformed_resultPartB (b : Byte) (s : State) : (raiseMalformed b s).resultPartB = s.resultPartB := rfl
@[simp] theorem raiseMalformed_mem (b : Byte) (s : State) : (raiseMalformed b s).mem = s.mem := rfl
@[simp] theorem raiseMalformed_resetLine (b : Byte) (s : State) : (raiseMalformed b s).resetLine = s.resetLine := rfl
@[simp] theorem raiseMalformed_producer (b : Byte) (s : State) : (raiseMalformed b s).producer = s.producer := rfl

/-! ### The reset edge -/

@[simp] theorem resetEdge_fsm (s : State) : (resetEdge s).fsm = .reset := rfl
@[simp] theorem resetEdge_addr (s : State) : (resetEdge s).addr = 0#8 := rfl
@[simp] theorem resetEdge_rdWait (s : State) : (resetEdge s).rdWait = false := rfl
@[simp] theorem resetEdge_rdData (s : State) : (resetEdge s).rdData = s.rdData := rfl
@[simp] theorem resetEdge_p0 (s : State) : (resetEdge s).p0 = Slot.empty := rfl
@[simp] theorem resetEdge_p1 (s : State) : (resetEdge s).p1 = Slot.empty := rfl
@[simp] theorem resetEdge_p2 (s : State) : (resetEdge s).p2 = Slot.empty := rfl
@[simp] theorem resetEdge_runningSum (s : State) : (resetEdge s).runningSum = 0#64 := rfl
@[simp] theorem resetEdge_resultPartA (s : State) : (resetEdge s).resultPartA = 0#64 := rfl
@[simp] theorem resetEdge_resultPartB (s : State) : (resetEdge s).resultPartB = 0#64 := rfl
@[simp] theorem resetEdge_mem (s : State) : (resetEdge s).mem = s.mem := rfl
@[simp] theorem resetEdge_resetLine (s : State) : (resetEdge s).resetLine = s.resetLine := rfl
@[simp] theorem resetEdge_producer (s : State) : (resetEdge s).producer = s.producer := rfl

/-! ### The bubble -/

@[simp] theorem bubble_fsm (s : State) : (bubble s).fsm = s.fsm := rfl
@[simp] theorem bubble_addr (s : State) : (bubble s).addr = s.addr := rfl
@[simp] theorem bubble_rdWait (s : State) : (bubble s).rdWait = false := rfl
@[simp] theorem bubble_rdData (s : State) : (bubble s).rdData = s.rdData := rfl
@[simp] theorem bubble_p0 (s : State) : (bubble s).p0 = s.p0 := rfl
@[simp] theorem bubble_p1 (s : State) : (bubble s).p1 = s.p1 := rfl
@[simp] theorem bubble_p2 (s : State) : (bubble s).p2 = s.p2 := rfl
@[simp] theorem bubble_runningSum (s : State) : (bubble s).runningSum = s.runningSum := rfl
@[simp] theorem bubble_resultPartA (s : State) : (bubble s).resultPartA = s.resultPartA := rfl
@[simp] theorem bubble_resultPartB (s : State) : (bubble s).resultPartB = s.resultPartB := rfl
@[simp] theorem bubble_mem (s : State) : (bubble s).mem = s.mem := rfl
@[simp] theorem bubble_resetLine (s : State) : (bubble s).resetLine = s.resetLine := rfl
@[simp] theorem bubble_producer (s : State) : (bubble s).producer = s.producer := rfl

/-! ### Idle and hold -/

@[simp] theorem idle_eq (s : State) : idle s = s := rfl
@[simp] theorem terminalHold_eq (s : State) : terminalHold s = s := rfl

/-! ### The end of a cycle -/

@[simp] theorem endCycle_fsm (t : State) (s : State) : (endCycle s t).fsm = t.fsm := rfl
@[simp] theorem endCycle_addr (t : State) (s : State) : (endCycle s t).addr = t.addr := rfl
@[simp] theorem endCycle_rdWait (t : State) (s : State) : (endCycle s t).rdWait = t.rdWait := rfl
@[simp] theorem endCycle_rdData (t : State) (s : State) : (endCycle s t).rdData = s.mem.read t.addr := rfl
@[simp] theorem endCycle_p0 (t : State) (s : State) : (endCycle s t).p0 = t.p0 := rfl
@[simp] theorem endCycle_p1 (t : State) (s : State) : (endCycle s t).p1 = t.p1 := rfl
@[simp] theorem endCycle_p2 (t : State) (s : State) : (endCycle s t).p2 = t.p2 := rfl
@[simp] theorem endCycle_runningSum (t : State) (s : State) : (endCycle s t).runningSum = t.runningSum := rfl
@[simp] theorem endCycle_resultPartA (t : State) (s : State) : (endCycle s t).resultPartA = t.resultPartA := rfl
@[simp] theorem endCycle_resultPartB (t : State) (s : State) : (endCycle s t).resultPartB = t.resultPartB := rfl
@[simp] theorem endCycle_mem (t : State) (s : State) : (endCycle s t).mem = t.mem := rfl
@[simp] theorem endCycle_resetLine (t : State) (s : State) : (endCycle s t).resetLine = s.resetLine.tail := rfl
@[simp] theorem endCycle_producer (t : State) (s : State) : (endCycle s t).producer = producerNext s.xfer s.producer := rfl

/-! ### The fill -/

theorem lastCell_eq : lastCell = 255#8 := rfl

theorem fillCycle_last {s : State} (h : s.addr = lastCell) :
    fillCycle s = { s with mem := s.mem.write s.addr 0#64, fsm := .input, addr := 0#8, rdWait := true } := by
  unfold fillCycle; rw [if_pos h]

theorem fillCycle_more {s : State} (h : s.addr ≠ lastCell) :
    fillCycle s = { s with mem := s.mem.write s.addr 0#64, addr := s.addr + 1#8 } := by
  unfold fillCycle; rw [if_neg h]

/-! ### Slots and operands -/

@[simp] theorem Slot.empty_en : Slot.empty.en = false := rfl
@[simp] theorem Slot.empty_addr : Slot.empty.addr = 0#8 := rfl
@[simp] theorem Slot.empty_value : Slot.empty.value = 0#64 := rfl
@[simp] theorem Slot.val_empty : Slot.empty.val = 0#64 := rfl
@[simp] theorem Slot.live_en (a : Addr) (v : Word) : (Slot.live a v).en = true := rfl
@[simp] theorem Slot.live_addr (a : Addr) (v : Word) : (Slot.live a v).addr = a := rfl
@[simp] theorem Slot.live_value (a : Addr) (v : Word) : (Slot.live a v).value = v := rfl
@[simp] theorem Slot.val_live (a : Addr) (v : Word) : (Slot.live a v).val = v := rfl
theorem Slot.val_of_en {p : Slot} (h : p.en = true) : p.val = p.value := by simp [Slot.val, h]
theorem Slot.val_of_not_en {p : Slot} (h : p.en = false) : p.val = 0#64 := by simp [Slot.val, h]
@[simp] theorem State.column_eq (s : State) : s.column = s.addr := rfl
@[simp] theorem State.readValue_eq (s : State) : s.readValue = s.rdData := rfl
@[simp] theorem State.carry_eq (s : State) : s.carry = s.p2.val := rfl

/-! ### Ports -/

@[simp] theorem State.ports_rst (s : State) : s.ports.rst = s.rst := rfl
@[simp] theorem State.ports_inValid (s : State) : s.ports.inValid = s.inValid := rfl
@[simp] theorem State.ports_inData (s : State) : s.ports.inData = s.inData := rfl
@[simp] theorem producerNext_nil (t : Bool) : producerNext t [] = [] := rfl
@[simp] theorem producerNext_pause (t : Bool) (d : Byte) (q : List Beat) : producerNext t (.pause d :: q) = q := rfl
@[simp] theorem producerNext_pulse (t : Bool) (b : Byte) (q : List Beat) : producerNext t (.pulse b :: q) = q := rfl
@[simp] theorem producerNext_offer_taken (b : Byte) (q : List Beat) : producerNext true (.offer b :: q) = q := rfl
@[simp] theorem producerNext_offer_held (b : Byte) (q : List Beat) :
    producerNext false (.offer b :: q) = .offer b :: q := rfl

end Sys2Proof.Machine
end

