-- ==== Sys2Proof/Laws/Step.lean ====
section
/-! SUPPORT. What each byte's meaning and one cycle can do, said once: later proofs cite these instead of unfolding
`exec`, `action` and `step`. -/

namespace Sys2Proof.Machine

/-! ### The byte operations -/

theorem exec_pass (s : State) :
    exec .pass s = .next (nextColumn (advance s.p1 (s.rdData + s.p2.val) Slot.empty s)) := rfl

theorem exec_start (s : State) : exec .start s = .next (nextColumn (advance s.p1 1#64 Slot.empty s)) := rfl

theorem exec_split (s : State) :
    exec .split s = .next (nextColumn (advance (Slot.live (s.addr - 1#8) (s.p1.val + s.rdData)) s.p2.val
      (Slot.live (s.addr + 1#8) s.rdData) (countSplit s))) := rfl

theorem exec_malformed (b : Byte) (s : State) : exec (.malformed b) s = .next (raiseMalformed b s) := rfl

/-- A newline does one of three things. -/
theorem exec_newline_cases {s t : State} (h : exec .newline s = .next t) :
    (s.windowBusy = true ∧ t = drain s) ∨
    (s.windowBusy = false ∧ s.addr = 0#8 ∧ t = endInput s) ∨
    (s.windowBusy = false ∧ s.addr ≠ 0#8 ∧ t = closeRow s) := by
  simp only [exec, execNewline] at h
  cases hb : s.windowBusy with
  | true =>
    rw [hb, if_pos rfl] at h
    exact .inl ⟨rfl, (Host.Outcome.next.inj h).symm⟩
  | false =>
    rw [hb, if_neg Bool.false_ne_true] at h
    by_cases ha : s.addr = 0#8
    · rw [if_pos ha] at h
      exact .inr (.inl ⟨rfl, ha, (Host.Outcome.next.inj h).symm⟩)
    · rw [if_neg ha] at h
      exact .inr (.inr ⟨rfl, ha, (Host.Outcome.next.inj h).symm⟩)

/-! ### One cycle -/

/-- Everything an action can be, with the condition of each (R131). -/
theorem action_cases {s t : State} (h : action s = .next t) :
    (s.rst = true ∧ t = resetEdge s) ∨
    (s.rst = false ∧ s.fsm = .reset ∧ t = fillCycle s) ∨
    (s.rst = false ∧ s.fsm = .input ∧ s.rdWait = true ∧ t = bubble s) ∨
    (s.rst = false ∧ s.fsm = .input ∧ s.rdWait = false ∧ s.inValid = false ∧ t = s) ∨
    (s.rst = false ∧ s.fsm = .input ∧ s.rdWait = false ∧ s.inValid = true ∧ exec (decodeByte s.inData) s = .next t) ∨
    (s.rst = false ∧ (s.fsm = .done ∨ s.fsm = .error) ∧ t = s) := by
  unfold action at h
  cases hr : s.rst with
  | true => simp [hr] at h; exact .inl ⟨rfl, h.symm⟩
  | false =>
    cases hf : s.fsm with
    | reset => simp [hr, hf] at h; simp [← h]
    | done => simp [hr, hf] at h; simp [← h]
    | error => simp [hr, hf] at h; simp [← h]
    | input =>
      cases hw : s.rdWait with
      | true => simp [hr, hf, hw] at h; simp [← h]
      | false =>
        cases hv : s.inValid with
        | false => simp [hr, hf, hw, hv] at h; simp [← h]
        | true => simp [hr, hf, hw, hv] at h; simp [h]

/-- A step that answers a next state is an action followed by the end of the cycle. -/
theorem step_next_iff {s t : State} : step s = .next t ↔ ∃ u, action s = .next u ∧ t = endCycle s u := by
  unfold step cycle
  cases action s with
  | next u => simp [eq_comm]
  | fault f => simp
  | refused r => simp

/-! ### Runs -/

@[simp] theorem run_zero (s : State) : run 0 s = .next s := rfl

theorem core_run_succ (M : Host.Core) (n : Nat) (s : M.State) :
    M.run (n + 1) s = match M.step s with
      | .next t => M.run n t
      | .fault f => .fault f
      | .refused r => .refused r := rfl

/-- One cycle, then the rest. -/
theorem run_succ (n : Nat) (s : State) :
    run (n + 1) s = match step s with
      | .next t => run n t
      | .fault f => .fault f
      | .refused r => .refused r := by
  have h : run (n + 1) s = _ := core_run_succ Sys2Proof.core n s
  have hc : Sys2Proof.core.step s = step s := rfl
  rw [h, hc]
  cases step s <;> rfl

theorem run_succ_of_step {n : Nat} {s t : State} (h : step s = .next t) : run (n + 1) s = run n t := by
  rw [run_succ, h]

theorem run_add {m n : Nat} {s t : State} (h : run m s = .next t) : run (m + n) s = run n t := by
  induction m generalizing s with
  | zero =>
    rw [run_zero] at h
    rw [Nat.zero_add, Host.Outcome.next.inj h]
  | succ m ih =>
    rw [run_succ] at h
    rw [Nat.add_right_comm, run_succ]
    cases hs : step s with
    | next u => rw [hs] at h; exact ih h
    | fault f => rw [hs] at h; exact absurd h (by simp)
    | refused r => rw [hs] at h; exact absurd h (by simp)

/-! ### The channel -/

theorem State.readyFor_iff {s : State} {d : Byte} :
    s.readyFor d = true ↔
      s.fsm = .input ∧ s.rdWait = false ∧ ¬ (d = byteNewline ∧ (s.p0.en = true ∨ s.p1.en = true)) := by
  cases h0 : s.p0.en <;> cases h1 : s.p1.en <;> simp [State.readyFor, h0, h1, and_assoc]

end Sys2Proof.Machine
end

