-- ==== Sys2Proof/Tests/Slice0.lean ====
section
/-! SUPPORT. The model's own tests. Expected values are those of spec/95_test_vectors.md (each test names its vector) or
are written out from the encoding table of spec/30_encoding.md; and for every statement that has hypotheses, a witness
that meets them. -/

namespace Sys2Proof.Tests

open Sys2Proof Sys2Proof.Machine

/-! ### Parameters: the widths of Word.lean are the parameters of Config.lean -/

theorem test_addr_width : Addr = BitVec Config.addrWidth := rfl
theorem test_word_width : Word = BitVec Config.cellWidth := rfl
theorem test_byte_width : Byte = BitVec Config.inWidth := rfl
theorem test_depth_is_two_to_the_address_width : Config.memDepth = 2 ^ Config.addrWidth := rfl

/-! ### Well-formedness: every recognised byte is refused as a malformed one -/

theorem test_malformed_pass_is_ill_formed : (Instr.malformed 0x2E#8).wellFormed = false := by decide
theorem test_malformed_start_is_ill_formed : (Instr.malformed 0x53#8).wellFormed = false := by decide
theorem test_malformed_split_is_ill_formed : (Instr.malformed 0x5E#8).wellFormed = false := by decide
theorem test_malformed_newline_is_ill_formed : (Instr.malformed 0x0A#8).wellFormed = false := by decide
theorem test_malformed_hash_is_well_formed : (Instr.malformed 0x23#8).wellFormed = true := by decide

/-! ### Decoding: the words of the encoding table, bit by bit -/

theorem test_decode_pass : decodeTableWord 8 0b00101110 = some .pass := by decide
theorem test_decode_start : decodeTableWord 8 0b01010011 = some .start := by decide
theorem test_decode_split : decodeTableWord 8 0b01011110 = some .split := by decide
theorem test_decode_newline : decodeTableWord 8 0b00001010 = some .newline := by decide
theorem test_decode_malformed_hash : decodeTableWord 8 0b00100011 = some (.malformed 0b00100011#8) := by decide
theorem test_decode_carriage_return : decodeByte 0x0D#8 = .malformed 0x0D#8 := by decide
theorem test_decode_no_byte : decode [] = .error .noByte := rfl
theorem test_decode_stream :
    decodeStream [0x53#8, 0x0A#8, 0x5E#8, 0x0A#8, 0x0A#8] = [.start, .newline, .split, .newline, .newline] := by decide

/-! ### Helpers -/

/-- An `INPUT` state with one cell, `mem[4] = 9`, listed (the vectors' memory), and one byte offered. -/
def presenting (b : Byte) (s : State) : State :=
  { s with fsm := .input, mem := [(4, 9#64)], producer := [.offer b] }

/-- One step of `s` answers a next state that passes `check`. -/
def after (s : State) (check : State → Bool) : Bool :=
  match step s with
  | .next t => check t
  | .fault _ => false
  | .refused _ => false

/-- An `INPUT` state at column 3 with a full window: `[{1,1,7}, {1,2,0}, {1,3,3}]`. -/
def fullWindow : State :=
  { State.reset with
    fsm := .input, addr := 3#8
    p0 := Slot.live 1#8 7#64, p1 := Slot.live 2#8 0#64, p2 := Slot.live 3#8 3#64 }

/-! ### One step per vector -/

/-- P-2: the trailing slot retires. -/
theorem test_pass_retires :
    after (presenting 0x2E#8 { State.reset with
        addr := 3#8, rdData := 5#64, p0 := Slot.live 1#8 4#64, p1 := Slot.live 2#8 9#64, runningSum := 10#64 })
      (fun t => t.addr == 4#8 && t.rdData == 9#64 && t.p0 == Slot.live 2#8 9#64 && t.p1 == Slot.live 3#8 5#64
        && t.p2 == Slot.empty && t.runningSum == 14#64 && t.mem == [(1, 4#64), (4, 9#64)]
        && t.producer == []) = true := by decide

/-- P-3: the sum of the read value and the carry wraps. -/
theorem test_pass_wraps :
    after (presenting 0x2E#8 { State.reset with
        addr := 3#8, rdData := 0xFFFFFFFFFFFFFFFF#64, p1 := Slot.live 2#8 0#64, p2 := Slot.live 3#8 1#64 })
      (fun t => t.p1 == Slot.live 3#8 0#64) = true := by decide

/-- T-2: the read value 4 and the carry 5 are both dropped. -/
theorem test_start_drops_carry :
    after (presenting 0x53#8 { State.reset with
        addr := 2#8, rdData := 4#64, p0 := Slot.live 0#8 1#64, p1 := Slot.live 1#8 0#64, p2 := Slot.live 2#8 5#64 })
      (fun t => t.addr == 3#8 && t.p0 == Slot.live 1#8 0#64 && t.p1 == Slot.live 2#8 1#64 && t.p2 == Slot.empty
        && t.runningSum == 1#64) = true := by decide

/-- S4: an incoming carry stays, only the read value is split. -/
theorem test_split_keeps_carry :
    after (presenting 0x5E#8 { State.reset with
        addr := 3#8, rdData := 2#64, p0 := Slot.live 1#8 0#64, p1 := Slot.live 2#8 1#64, p2 := Slot.live 3#8 6#64 })
      (fun t => t.addr == 4#8 && t.rdData == 9#64 && t.p0 == Slot.live 2#8 3#64 && t.p1 == Slot.live 3#8 6#64
        && t.p2 == Slot.live 4#8 2#64 && t.resultPartA == 1#64) = true := by decide

/-- S3: at column 0 the leftward share goes to address 255. -/
theorem test_split_at_column_zero :
    after (presenting 0x5E#8 { State.reset with rdData := 1#64 })
      (fun t => t.addr == 1#8 && t.p0 == Slot.live 255#8 1#64 && t.p1 == Slot.live 0#8 0#64
        && t.p2 == Slot.live 1#8 1#64 && t.resultPartA == 1#64) = true := by decide

/-- N1: a drain retires one slot and leaves the byte with the producer. -/
theorem test_newline_drains :
    after (presenting 0x0A#8 { fullWindow with runningSum := 10#64 })
      (fun t => t.addr == 3#8 && t.p0 == Slot.live 2#8 0#64 && t.p1 == Slot.live 3#8 3#64 && t.p2 == Slot.empty
        && t.runningSum == 17#64 && t.mem == [(1, 7#64), (4, 9#64)] && t.producer == [.offer 0x0A#8]) = true := by
  decide

/-- N3: a row end replaces `result_part_b`. -/
theorem test_newline_ends_row :
    after (presenting 0x0A#8 { State.reset with addr := 5#8, runningSum := 4#64, resultPartB := 9#64 })
      (fun t => t.addr == 0#8 && t.runningSum == 0#64 && t.resultPartB == 4#64 && t.fsm == .input
        && t.producer == []) = true := by decide

/-- M4: a malformed byte in mid-row freezes the window. -/
theorem test_malformed_freezes :
    after (presenting 0x23#8 fullWindow)
      (fun t => t.error && t.p0 == fullWindow.p0 && t.p1 == fullWindow.p1 && t.p2 == fullWindow.p2
        && t.mem == [(4, 9#64)] && t.producer == []) = true := by decide

/-- C1: the first fill cycle reads the old value of cell 1. -/
theorem test_fill_first :
    after { State.reset with mem := [(0, 5#64), (1, 5#64), (2, 5#64)], producer := [.offer 0x53#8] }
      (fun t => t.fsm == .reset && t.addr == 1#8 && t.rdData == 5#64 && t.mem == [(1, 5#64), (2, 5#64)]
        && t.producer == [.offer 0x53#8]) = true := by decide

/-- C2: the last fill cycle moves to `INPUT`. -/
theorem test_fill_last :
    after { State.reset with addr := 255#8, mem := [(255, 5#64)] }
      (fun t => t.fsm == .input && t.addr == 0#8 && t.rdWait && t.rdData == 0#64 && t.mem == []) = true := by decide

/-- C6: reset wins over a transfer, and the byte is lost. -/
theorem test_reset_wins :
    after { State.reset with
        fsm := .input, addr := 2#8, p1 := Slot.live 1#8 1#64, resetLine := [true], producer := [.offer 0x2E#8] }
      (fun t => t.fsm == .reset && t.addr == 0#8 && t.p1 == Slot.empty && t.producer == []) = true := by decide

/-- Y4, Y5 and Y6: `in_ready` with a busy window. -/
theorem test_ready_for_newline_only_when_empty :
    (fullWindow.readyFor 0x0A#8, fullWindow.readyFor 0x2E#8, fullWindow.readyFor 0x23#8) = (false, true, true) := by
  decide

/-- An instruction placed by `withFetchWord` is the first thing the next step runs. -/
theorem test_first_instruction_runs :
    after (State.reset.withFetchWord 8 0x53) (fun t => t.addr == 1#8 && t.p1 == Slot.live 0#8 1#64) = true := by decide

/-! ### Witnesses: states and operands that meet the hypotheses of the statements in Obligations.lean -/

/-- `fullWindow` with a byte offered. -/
def fullWith (b : Byte) : State := { fullWindow with producer := [.offer b] }

/-- A row's first column: `INPUT`, an empty window, and mass in cells 0 and 255. -/
def rowStart (b : Byte) : State :=
  { State.reset with fsm := .input, rdData := 5#64, mem := [(0, 5#64), (255, 6#64)], producer := [.offer b] }

theorem fullWindow_legal (q : List Beat) : { fullWindow with producer := q }.Legal :=
  ⟨rfl, rfl, rfl, rfl, fun _ => rfl, (fun h => nomatch h), (fun h => nomatch h)⟩

theorem fullWindow_streaming (q : List Beat) (h : q.all Beat.dutiful = true) :
    { fullWindow with producer := q }.Streaming :=
  ⟨fullWindow_legal q, h, fun _ _ => .inr ⟨⟨fun _ => ⟨(by decide : (1#8 : Addr) = 3#8 - 2#8), rfl⟩,
    fun _ => (by decide : (2#8 : Addr) = 3#8 - 1#8), fun _ => ⟨rfl, rfl⟩,
    (fun h => nomatch h)⟩, rfl⟩⟩

theorem fullWith_legal (b : Byte) : (fullWith b).Legal := fullWindow_legal _

theorem fullWith_streaming (b : Byte) : (fullWith b).Streaming := fullWindow_streaming _ rfl

theorem rowStart_legal (b : Byte) : (rowStart b).Legal :=
  ⟨rfl, rfl, rfl, rfl, (fun h => nomatch h), (fun h => nomatch h), (fun h => nomatch h)⟩

theorem rowStart_streaming (b : Byte) : (rowStart b).Streaming :=
  ⟨rowStart_legal b, rfl, fun _ _ => .inr ⟨⟨(fun h => nomatch h), (fun h => nomatch h), (fun h => nomatch h),
    fun _ => rfl⟩, rfl⟩⟩

theorem lowFor_of_nil {s : State} (h : s.resetLine = []) (n : Nat) : s.resetLowFor n := fun _ _ => by rw [h]; rfl

theorem witness_ProgramsAndByteStreamsCorrespond :
    ∀ i ∈ [Instr.start, .newline, .split, .pass, .malformed 0x23#8], i.wellFormed = true := by decide

theorem witness_StepRunsTheClassifiedByte :
    ∀ b ∈ [0x2E#8, 0x53#8, 0x5E#8, 0x0A#8, 0x23#8],
      (fullWith b).rst = false ∧ (fullWith b).fsm = .input ∧ (fullWith b).rdWait = false ∧
        (fullWith b).inValid = true ∧ (fullWith b).inData = b := by decide

theorem witness_UnclassifiedInputChangesNothing :
    State.reset.classifies = false ∧ { State.reset with producer := [.offer 0x53#8] }.classifies = false ∧
      { State.reset with fsm := .done, producer := [.pulse 0x0A#8] }.classifies = false := by decide

theorem witness_SplitAtColumnZeroSharesWithLastCell :
    (rowStart 0x5E#8).addr = 0#8 ∧ (rowStart 0x5E#8).p1 = Slot.empty := by decide

theorem witness_NewlineDrainResult :
    fullWindow.p0.en = true ∧ fullWindow.p1.en = true ∧
      ({ fullWindow with p0 := Slot.empty }.p0.en = false ∧ { fullWindow with p0 := Slot.empty }.p1.en = true) ∧
      ({ State.reset with p0 := Slot.live 0#8 1#64 }.p0.en = true ∧
        { State.reset with p0 := Slot.live 0#8 1#64 }.p1.en = false) := by decide

theorem witness_NewlineRowEndResult :
    ∀ a ∈ [1#8, 255#8], let s : State := { rowStart 0x0A#8 with addr := a }
      s.p0.en = false ∧ s.p1.en = false ∧ s.addr ≠ 0#8 := by decide

theorem witness_NewlineEndOfInputResult :
    (rowStart 0x0A#8).p0.en = false ∧ (rowStart 0x0A#8).p1.en = false ∧ (rowStart 0x0A#8).addr = 0#8 := by decide

theorem witness_MalformedResult :
    ∀ b ∈ [0x00#8, 0x0B#8, 0x0D#8, 0x2F#8, 0x54#8, 0x5F#8, 0xFF#8],
      b ≠ 0x2E#8 ∧ b ≠ 0x53#8 ∧ b ≠ 0x5E#8 ∧ b ≠ 0x0A#8 ∧
        (fullWith b).fsm = .input ∧ (fullWith b).rdWait = false := by decide

theorem witness_GridBytesFrame :
    (∃ t, fullWindow.mem.wf = true ∧ fullWindow.p0.en = true ∧ exec .pass fullWindow = .next t) ∧
    (∃ t, (rowStart 0x53#8).mem.wf = true ∧ (rowStart 0x53#8).p0.en = false ∧
      exec .start (rowStart 0x53#8) = .next t) ∧
    (∃ t, fullWindow.mem.wf = true ∧ exec .split fullWindow = .next t) :=
  ⟨⟨_, rfl, rfl, rfl⟩, ⟨_, by decide, rfl, rfl⟩, ⟨_, rfl, rfl⟩⟩

theorem witness_NewlineFrame :
    (∃ t, fullWindow.windowBusy = true ∧ fullWindow.p0.en = true ∧ fullWindow.mem.wf = true ∧
      exec .newline fullWindow = .next t) ∧
    (∃ t, (rowStart 0#8).windowBusy = false ∧ (rowStart 0#8).addr = 0#8 ∧ (rowStart 0#8).mem.wf = true ∧
      exec .newline (rowStart 0#8) = .next t) ∧
    (∃ t, { rowStart 0#8 with addr := 255#8 }.windowBusy = false ∧
      { rowStart 0#8 with addr := 255#8 }.mem.wf = true ∧
      exec .newline { rowStart 0#8 with addr := 255#8 } = .next t) :=
  ⟨⟨_, rfl, rfl, rfl, rfl⟩, ⟨_, rfl, rfl, by decide, rfl⟩, ⟨_, rfl, by decide, rfl⟩⟩

theorem witness_AdjacentSplitsKeepTheCarry :
    let s : State := { fullWindow with producer := [.offer 0x5E#8, .offer 0x5E#8] }
    s.mem.wf = true ∧ s.fsm = .input ∧ s.rdWait = false ∧ s.resetLowFor 2 ∧
      s.producer = .offer 0x5E#8 :: .offer 0x5E#8 :: [] :=
  ⟨rfl, rfl, rfl, lowFor_of_nil rfl 2, rfl⟩

theorem witness_ResetEdgeOverridesEverything : { fullWith 0x2E#8 with resetLine := [true] }.rst = true := by decide

theorem witness_ResetCycleTransferIsLost :
    let s : State := { fullWith 0x2E#8 with resetLine := [true] }
    s.rst = true ∧ s.producer = .offer 0x2E#8 :: [] ∧ s.inReady = true := by decide

theorem witness_FillCycleResult :
    (State.reset.rst = false ∧ State.reset.fsm = .reset ∧ State.reset.addr ≠ 255#8) ∧
    ∀ a ∈ [254#8, 255#8], { State.reset with addr := a }.rst = false ∧ { State.reset with addr := a }.fsm = .reset := by
  decide

theorem witness_BubbleIsTheOnlyReadWait :
    (∃ s t : State, s.rst = false ∧ s.fsm = .input ∧ s.rdWait = true ∧ step s = .next t) ∧
    (∃ t, { State.reset with addr := 255#8 }.rdWait = false ∧ step { State.reset with addr := 255#8 } = .next t ∧
      t.rdWait = true) :=
  ⟨⟨{ State.reset with fsm := .input, rdWait := true }, _, rfl, rfl, rfl, rfl⟩, ⟨_, rfl, rfl, rfl⟩⟩

theorem witness_IdleCycleHolds :
    let s : State := { fullWindow with producer := [.pause 0x0A#8, .offer 0x2E#8] }
    s.rst = false ∧ s.fsm = .input ∧ s.rdWait = false ∧ s.inValid = false := by decide

theorem witness_TerminalStatesHoldUntilReset :
    ({ fullWith 0x2E#8 with fsm := .done }.terminal ∧ { fullWith 0x2E#8 with fsm := .done }.resetLowFor 0) ∧
    ({ fullWith 0x2E#8 with fsm := .error }.terminal ∧ { fullWith 0x2E#8 with fsm := .error }.resetLowFor 300) :=
  ⟨⟨.inl rfl, lowFor_of_nil rfl 0⟩, ⟨.inr rfl, lowFor_of_nil rfl 300⟩⟩

theorem witness_ReadPortReloadsEveryCycle : ∃ t, step (fullWith 0x2E#8) = .next t := ⟨_, rfl⟩

theorem witness_OnlyTwoThingsWriteMemory :
    (∃ t, (fullWith 0x2E#8).mem.wf = true ∧ step (fullWith 0x2E#8) = .next t ∧
      t.mem.read 1#8 ≠ (fullWith 0x2E#8).mem.read 1#8) ∧
    (∃ t, { State.reset with mem := [(0, 5#64)] }.mem.wf = true ∧
      step { State.reset with mem := [(0, 5#64)] } = .next t ∧
      t.mem.read 0#8 ≠ { State.reset with mem := [(0, 5#64)] }.mem.read 0#8) :=
  ⟨⟨_, rfl, rfl, by decide⟩, ⟨_, by decide, rfl, by decide⟩⟩

theorem witness_CanonicalMemoriesWithEqualCellsAreEqual :
    (Memory.write (Memory.write [] 4#8 9#64) 1#8 7#64).wf = true ∧
      (Memory.write (Memory.write [] 1#8 7#64) 4#8 9#64).wf = true ∧
      ∀ a : Addr, (Memory.write (Memory.write [] 4#8 9#64) 1#8 7#64).read a =
        (Memory.write (Memory.write [] 1#8 7#64) 4#8 9#64).read a :=
  ⟨by decide, by decide, fun _ => rfl⟩

/-- One witness for each branch of the state machine's and the registers' exact laws. -/
theorem witness_FsmTransitionsAreExact :
    (∃ t, step { State.reset with addr := 255#8 } = .next t ∧ t.fsm = .input) ∧
    (∃ t, step (rowStart 0x0A#8) = .next t ∧ t.fsm = .done) ∧
    (∃ t, step (fullWith 0x23#8) = .next t ∧ t.fsm = .error) ∧
    (∃ t, step { fullWith 0x23#8 with fsm := .done } = .next t ∧ t.fsm = .done) ∧
    (∃ t, step { fullWith 0x23#8 with resetLine := [true] } = .next t ∧ t.fsm = .reset) :=
  ⟨⟨_, rfl, rfl⟩, ⟨_, rfl, rfl⟩, ⟨_, rfl, rfl⟩, ⟨_, rfl, rfl⟩, ⟨_, rfl, rfl⟩⟩

theorem witness_AddressRegisterIsExact :
    (∃ t, step { State.reset with addr := 254#8 } = .next t ∧ t.addr = 255#8) ∧
    (∃ t, step { rowStart 0x2E#8 with addr := 255#8 } = .next t ∧ t.addr = 0#8) ∧
    (∃ t, step { rowStart 0x0A#8 with addr := 9#8 } = .next t ∧ t.addr = 0#8) :=
  ⟨⟨_, rfl, by decide⟩, ⟨_, rfl, by decide⟩, ⟨_, rfl, rfl⟩⟩

theorem witness_RunningSumIsExact :
    (∃ t, step (fullWith 0x2E#8) = .next t ∧ t.runningSum = 7#64) ∧
    (∃ t, step { rowStart 0x0A#8 with addr := 9#8, runningSum := 3#64 } = .next t ∧ t.runningSum = 0#64) :=
  ⟨⟨_, rfl, by decide⟩, ⟨_, rfl, rfl⟩⟩

theorem witness_SplitCountIsExact :
    (∃ t, step (rowStart 0x5E#8) = .next t ∧ t.resultPartA = 1#64) ∧
    (∃ t, step (fullWith 0x5E#8) = .next t ∧ t.resultPartA = 0#64) :=
  ⟨⟨_, rfl, by decide⟩, ⟨_, rfl, by decide⟩⟩

theorem witness_LastRowSumIsExact :
    ∃ t, step { rowStart 0x0A#8 with addr := 1#8, runningSum := 3#64 } = .next t ∧ t.resultPartB = 3#64 :=
  ⟨_, rfl, rfl⟩

theorem witness_WindowHoldsOtherwise :
    (∃ t, { fullWith 0x23#8 with resetLine := [true] }.rst = true ∧
      step { fullWith 0x23#8 with resetLine := [true] } = .next t) ∧
    (∃ t, (fullWith 0x23#8).rst = false ∧ (fullWith 0x23#8).inData ≠ 0x0A#8 ∧ step (fullWith 0x23#8) = .next t) :=
  ⟨⟨_, rfl, rfl⟩, ⟨_, rfl, by decide, rfl⟩⟩

theorem witness_TransferIffValidAndReady :
    (∃ t, (fullWith 0x2E#8).producer = .offer 0x2E#8 :: [] ∧ (fullWith 0x2E#8).inReady = true ∧
      step (fullWith 0x2E#8) = .next t) ∧
    (∃ t, (fullWith 0x0A#8).producer = .offer 0x0A#8 :: [] ∧ (fullWith 0x0A#8).inReady = false ∧
      step (fullWith 0x0A#8) = .next t) :=
  ⟨⟨_, rfl, rfl, rfl⟩, ⟨_, rfl, rfl, rfl⟩⟩

theorem witness_DutifulProducerHoldsItsByte :
    ∃ t, (fullWith 0x0A#8).dutiful = true ∧ step (fullWith 0x0A#8) = .next t ∧ (fullWith 0x0A#8).inValid = true ∧
      (fullWith 0x0A#8).inReady = false :=
  ⟨_, rfl, rfl, rfl, rfl⟩

theorem witness_EveryInputWaveformCanBeDriven :
    [Ports.mk false true 0x53#8, Ports.mk true false 0x0A#8][1]? = some (Ports.mk true false 0x0A#8) := rfl

/-- Windows that drain for 3, 2, 1 and 0 cycles, and one with `p[1]` alone (vectors N2 and L1-1), which drains for 2. -/
theorem witness_NewlineIsAcceptedAfterTheDrain :
    ∀ s ∈ [fullWith 0x0A#8, { fullWith 0x0A#8 with p2 := Slot.empty },
        { fullWith 0x0A#8 with p1 := Slot.empty, p2 := Slot.empty }, rowStart 0x0A#8,
        { fullWith 0x0A#8 with p0 := Slot.empty, p2 := Slot.empty }],
      s.Legal ∧ s.fsm = .input ∧ s.rdWait = false ∧ s.resetLowFor 3 ∧ s.producer = .offer 0x0A#8 :: [] := by
  intro s hs
  simp only [List.mem_cons, List.not_mem_nil, or_false] at hs
  rcases hs with rfl | rfl | rfl | rfl | rfl
  · exact ⟨fullWith_legal _, rfl, rfl, lowFor_of_nil rfl 3, rfl⟩
  · exact ⟨⟨rfl, rfl, rfl, rfl, (fun h => nomatch h), (fun h => nomatch h),
      (fun h => nomatch h)⟩, rfl, rfl, lowFor_of_nil rfl 3, rfl⟩
  · exact ⟨⟨rfl, rfl, rfl, rfl, (fun h => nomatch h), (fun h => nomatch h),
      (fun h => nomatch h)⟩, rfl, rfl, lowFor_of_nil rfl 3, rfl⟩
  · exact ⟨rowStart_legal _, rfl, rfl, lowFor_of_nil rfl 3, rfl⟩
  · exact ⟨⟨rfl, rfl, rfl, rfl, (fun h => nomatch h), (fun h => nomatch h),
      (fun h => nomatch h)⟩, rfl, rfl, lowFor_of_nil rfl 3, rfl⟩

/-- The window with `p[1]` alone: the newline waits for 2 cycles and is accepted in the third (L1-1's drain). -/
theorem witness_CurrentSlotAloneDrainsForTwoCycles :
    ∀ s ∈ [{ fullWith 0x0A#8 with p0 := Slot.empty, p2 := Slot.empty }],
      s.p0.en = false ∧ s.p1.en = true ∧ s.p2.en = false ∧ s.inReady = false ∧
      (∃ u, run 1 s = .next u ∧ u.inReady = false) ∧ ∃ t, run 2 s = .next t ∧ t.inReady = true := by
  intro s hs
  obtain rfl := List.mem_singleton.mp hs
  exact ⟨rfl, rfl, rfl, rfl, ⟨_, rfl, rfl⟩, _, rfl, rfl⟩

theorem witness_RowClosesWithItsWholeSum :
    (fullWith 0x0A#8).Legal ∧ (fullWith 0x0A#8).fsm = .input ∧ (fullWith 0x0A#8).rdWait = false ∧
      (fullWith 0x0A#8).resetLowFor 4 ∧ (fullWith 0x0A#8).producer = .offer 0x0A#8 :: [] ∧
      (fullWith 0x0A#8).addr ≠ 0#8 :=
  ⟨fullWith_legal _, rfl, rfl, lowFor_of_nil rfl 4, rfl, by decide⟩

theorem witness_EveryStepKeepsLegality :
    ∃ t, (fullWith 0x5E#8).Legal ∧ step (fullWith 0x5E#8) = .next t := ⟨_, fullWith_legal _, rfl⟩

theorem witness_PowerOnIsLegal : Memory.wf [(0, 5#64), (255, 6#64)] = true := by decide

theorem witness_EveryStepKeepsStreaming :
    ∃ t, (fullWith 0x5E#8).Streaming ∧ step (fullWith 0x5E#8) = .next t := ⟨_, fullWith_streaming _, rfl⟩

theorem witness_PowerOnIsStreaming :
    Memory.wf [(0, 5#64), (255, 6#64)] = true ∧ [Beat.pause 0#8, .offer 0x53#8].all Beat.dutiful = true := by decide

theorem witness_GridByteCyclesSeeTheirColumn :
    (∀ b ∈ [0x2E#8, 0x53#8, 0x5E#8], (fullWith b).Streaming ∧ (fullWith b).classifies = true ∧
      (fullWith b).inData = b) ∧
    (rowStart 0x5E#8).Streaming ∧ (rowStart 0x5E#8).classifies = true :=
  ⟨fun b _ => ⟨fullWith_streaming b, rfl, rfl⟩, rowStart_streaming _, rfl⟩

/-- The four rows of the table: PASS, START, SPLIT past column 0 and SPLIT at column 0. -/
theorem witness_GridBytesChangeMassAsTabled :
    (∀ b ∈ [0x2E#8, 0x53#8, 0x5E#8], (fullWith b).Streaming ∧ (fullWith b).classifies = true ∧
      (fullWith b).inData = b ∧ (fullWith b).p1.en = true ∧ ∃ t, step (fullWith b) = .next t) ∧
    ((rowStart 0x5E#8).Streaming ∧ (rowStart 0x5E#8).classifies = true ∧ (rowStart 0x5E#8).p1.en = false ∧
      ∃ t, step (rowStart 0x5E#8) = .next t) := by
  refine ⟨fun b hb => ?_, rowStart_streaming _, rfl, rfl, _, rfl⟩
  refine ⟨fullWith_streaming b, rfl, rfl, rfl, ?_⟩
  simp only [List.mem_cons, List.not_mem_nil, or_false] at hb
  rcases hb with rfl | rfl | rfl <;> exact ⟨_, rfl⟩

theorem witness_DrainChangesMassAsTabled :
    ∃ t, (fullWith 0x0A#8).Legal ∧ (fullWith 0x0A#8).classifies = true ∧ (fullWith 0x0A#8).inData = 0x0A#8 ∧
      (fullWith 0x0A#8).windowBusy = true ∧
      (fullWith 0x0A#8).p0.addr ≠ (fullWith 0x0A#8).p1.addr ∧
      (fullWith 0x0A#8).p0.addr ≠ (fullWith 0x0A#8).p2.addr ∧
      (fullWith 0x0A#8).p1.addr ≠ (fullWith 0x0A#8).p2.addr ∧
      step (fullWith 0x0A#8) = .next t :=
  ⟨_, fullWith_legal _, rfl, rfl, rfl, by decide, by decide, by decide, rfl⟩

theorem witness_OtherCyclesKeepMass :
    (∃ t, (rowStart 0x0A#8).rst = false ∧ (rowStart 0x0A#8).fsm ≠ .reset ∧ (rowStart 0x0A#8).windowBusy = false ∧
      step (rowStart 0x0A#8) = .next t) ∧
    (∃ t, (fullWith 0x23#8).rst = false ∧ (fullWith 0x23#8).fsm ≠ .reset ∧ step (fullWith 0x23#8) = .next t) :=
  ⟨⟨_, rfl, by decide, rfl, rfl⟩, ⟨_, rfl, by decide, rfl⟩⟩

theorem reset_legal_with (m : Memory) (h : m.wf = true) : { State.reset with mem := m }.Legal :=
  ⟨h, rfl, rfl, rfl, (fun c => nomatch c),
    fun _ => ⟨rfl, ⟨rfl, rfl, rfl⟩, ⟨rfl, rfl, rfl⟩, h⟩, (fun c => nomatch c)⟩

theorem witness_BootReachesTheFirstConsumingState :
    let s : State := { State.reset with mem := [(0, 5#64), (255, 6#64)] }
    s.Legal ∧ s.fsm = .reset ∧ s.addr = 0#8 ∧ s.resetLowFor 257 :=
  ⟨reset_legal_with _ (by decide), rfl, rfl, lowFor_of_nil rfl 257⟩

theorem witness_ResetForgetsTheInterruptedRun :
    let q : List Beat := [.pause 0#8, .offer 0x53#8]
    let s : State := { fullWindow with resetLine := [true], producer := q, mem := [(0, 5#64)] }
    let s' : State := { State.reset with resetLine := [true], producer := q, fsm := .error }
    s.mem.wf = true ∧ s'.mem.wf = true ∧ s.resetLine = s'.resetLine ∧ s.producer = s'.producer ∧ s.rst = true ∧
      s.inValid = false ∧ (∀ j : Nat, j < 257 → s.resetLine.getD (j + 1) false = false) ∧ s ≠ s' :=
  ⟨by decide, rfl, rfl, rfl, rfl, rfl, fun _ _ => rfl, by decide⟩

theorem witness_PausesAreAbsorbed :
    let s : State := { fullWindow with producer := [.pause 0x0A#8, .offer 0x2E#8] }
    s.Streaming ∧ s.fsm = .input ∧ s.rdWait = false ∧ s.rst = false ∧
      s.producer = .pause 0x0A#8 :: [.offer 0x2E#8] :=
  ⟨fullWindow_streaming _ rfl, rfl, rfl, rfl, rfl⟩

theorem witness_ResultsDoNotDependOnPauses :
    (fullWith 0x0A#8).Streaming ∧ (fullWith 0x0A#8).fsm ≠ .reset ∧ (fullWith 0x0A#8).rdWait = false ∧
      (fullWith 0x0A#8).resetLine = [] :=
  ⟨fullWith_streaming _, by decide, rfl, rfl⟩

end Sys2Proof.Tests
end

/-! SUPPORT. The statements about the registers, the frames of the byte operations, and the invariants that every cycle
keeps. One inversion of a cycle (`CycleAction`) carries the case analysis; every law below is a case split along it. -/

namespace Sys2Proof.Machine

/-! ### Retiring the trailing slot -/

theorem retire_read_trailing {s : State} (hm : s.mem.wf = true) (he : s.p0.en = true) :
    (retire s).mem.read s.p0.addr = s.p0.value := by
  simp [he, Memory.read_write_same hm]

theorem retire_read_other {s : State} (hm : s.mem.wf = true) {a : Addr} (ha : s.p0.en = true → a ≠ s.p0.addr) :
    (retire s).mem.read a = s.mem.read a := by
  cases he : s.p0.en with
  | false => simp [he]
  | true => simp [he, Memory.read_write_other hm s.p0.value (ha he)]

theorem retire_runningSum_of_not_en {s : State} (he : s.p0.en = false) : (retire s).runningSum = s.runningSum := by
  simp [he]

theorem retire_mem_wf {s : State} (hm : s.mem.wf = true) : (retire s).mem.wf = true := by
  cases he : s.p0.en with
  | false => simpa [he] using hm
  | true => simpa [he] using Memory.wf_write hm s.p0.addr s.p0.value

/-! ### The fill cycle -/

theorem fillCycle_addr (s : State) : (fillCycle s).addr = if s.addr = 255#8 then 0#8 else s.addr + 1#8 := by
  by_cases h : s.addr = lastCell
  · rw [fillCycle_last h, if_pos (h.trans lastCell_eq)]
  · rw [fillCycle_more h, if_neg (lastCell_eq ▸ h)]

@[simp] theorem fillCycle_runningSum (s : State) : (fillCycle s).runningSum = s.runningSum := by
  unfold fillCycle; split <;> rfl

@[simp] theorem fillCycle_resultPartA (s : State) : (fillCycle s).resultPartA = s.resultPartA := by
  unfold fillCycle; split <;> rfl

@[simp] theorem fillCycle_resultPartB (s : State) : (fillCycle s).resultPartB = s.resultPartB := by
  unfold fillCycle; split <;> rfl

/-! ### The one-bit signals -/

theorem State.windowBusy_iff {s : State} : s.windowBusy = true ↔ s.p0.en = true ∨ s.p1.en = true := by
  simp [State.windowBusy]

theorem State.windowBusy_eq_false_iff {s : State} : s.windowBusy = false ↔ s.p0.en = false ∧ s.p1.en = false := by
  simp [State.windowBusy]

theorem State.classifies_iff {s : State} :
    s.classifies = true ↔ s.rst = false ∧ s.fsm = .input ∧ s.rdWait = false ∧ s.inValid = true := by
  simp [State.classifies, and_assoc]

theorem State.rst_of_classifies {s : State} (h : s.classifies = true) : s.rst = false := by
  obtain ⟨hr, -, -, -⟩ := State.classifies_iff.mp h
  exact hr

theorem State.fsm_of_classifies {s : State} (h : s.classifies = true) : s.fsm = .input := by
  obtain ⟨-, hf, -, -⟩ := State.classifies_iff.mp h
  exact hf

theorem State.rdWait_of_classifies {s : State} (h : s.classifies = true) : s.rdWait = false := by
  obtain ⟨-, -, hw, -⟩ := State.classifies_iff.mp h
  exact hw

theorem State.inValid_of_classifies {s : State} (h : s.classifies = true) : s.inValid = true := by
  obtain ⟨-, -, -, hv⟩ := State.classifies_iff.mp h
  exact hv

/-! ### What one cycle can do -/

/-- What the action of a cycle from `s` can be, one constructor for each rule that gives one, with the condition under
which R131 and R183 choose it. -/
inductive CycleAction (s : State) : State → Prop
  /-- R130. -/
  | reset (hr : s.rst = true) : CycleAction s (resetEdge s)
  /-- R133. -/
  | fill (hr : s.rst = false) (hc : s.classifies = false) (hf : s.fsm = .reset) : CycleAction s (fillCycle s)
  /-- R134. -/
  | bubble (hr : s.rst = false) (hc : s.classifies = false) (hf : s.fsm = .input) (hw : s.rdWait = true) :
      CycleAction s (bubble s)
  /-- R135. -/
  | idle (hr : s.rst = false) (hc : s.classifies = false) (hf : s.fsm = .input) (hw : s.rdWait = false)
      (hv : s.inValid = false) : CycleAction s s
  /-- R136. -/
  | hold (hr : s.rst = false) (hc : s.classifies = false) (hf : s.fsm = .done ∨ s.fsm = .error) : CycleAction s s
  /-- R150. -/
  | pass (hc : s.classifies = true) (hb : s.inData = 0x2E#8) :
      CycleAction s (nextColumn (advance s.p1 (s.rdData + s.p2.val) Slot.empty s))
  /-- R151. -/
  | start (hc : s.classifies = true) (hb : s.inData = 0x53#8) :
      CycleAction s (nextColumn (advance s.p1 1#64 Slot.empty s))
  /-- R152. -/
  | split (hc : s.classifies = true) (hb : s.inData = 0x5E#8) :
      CycleAction s (nextColumn (advance (Slot.live (s.addr - 1#8) (s.p1.val + s.rdData)) s.p2.val
        (Slot.live (s.addr + 1#8) s.rdData) (countSplit s)))
  /-- R155. -/
  | drain (hc : s.classifies = true) (hb : s.inData = 0x0A#8) (hbusy : s.windowBusy = true) : CycleAction s (drain s)
  /-- R161. -/
  | endInput (hc : s.classifies = true) (hb : s.inData = 0x0A#8) (hbusy : s.windowBusy = false) (ha : s.addr = 0#8) :
      CycleAction s (endInput s)
  /-- R160. -/
  | closeRow (hc : s.classifies = true) (hb : s.inData = 0x0A#8) (hbusy : s.windowBusy = false) (ha : s.addr ≠ 0#8) :
      CycleAction s (closeRow s)
  /-- R170. -/
  | malformed (hc : s.classifies = true) (hpass : s.inData ≠ 0x2E#8) (hstart : s.inData ≠ 0x53#8)
      (hsplit : s.inData ≠ 0x5E#8) (hnewline : s.inData ≠ 0x0A#8) : CycleAction s (raiseMalformed s.inData s)

/-- The table of R72, row by row, and R73's other bytes. -/
theorem decodeByte_cases (b : Byte) :
    (b = 0x2E#8 ∧ decodeByte b = .pass) ∨ (b = 0x53#8 ∧ decodeByte b = .start) ∨
    (b = 0x5E#8 ∧ decodeByte b = .split) ∨ (b = 0x0A#8 ∧ decodeByte b = .newline) ∨
    ((b ≠ 0x2E#8 ∧ b ≠ 0x53#8 ∧ b ≠ 0x5E#8 ∧ b ≠ 0x0A#8) ∧ decodeByte b = .malformed b) := by
  unfold decodeByte bytePass byteStart byteSplit byteNewline
  split_ifs with hpass hstart hsplit hnewline
  · exact .inl ⟨hpass, rfl⟩
  · exact .inr (.inl ⟨hstart, rfl⟩)
  · exact .inr (.inr (.inl ⟨hsplit, rfl⟩))
  · exact .inr (.inr (.inr (.inl ⟨hnewline, rfl⟩)))
  · exact .inr (.inr (.inr (.inr ⟨⟨hpass, hstart, hsplit, hnewline⟩, rfl⟩)))

theorem CycleAction.of_exec {s u : State} (hc : s.classifies = true) (h : exec (decodeByte s.inData) s = .next u) :
    CycleAction s u := by
  obtain ⟨hb, hd⟩ | ⟨hb, hd⟩ | ⟨hb, hd⟩ | ⟨hb, hd⟩ | ⟨⟨hpass, hstart, hsplit, hnewline⟩, hd⟩ :=
    decodeByte_cases s.inData <;> rw [hd] at h
  · obtain rfl := Host.Outcome.next.inj h
    exact .pass hc hb
  · obtain rfl := Host.Outcome.next.inj h
    exact .start hc hb
  · obtain rfl := Host.Outcome.next.inj h
    exact .split hc hb
  · obtain ⟨hbusy, rfl⟩ | ⟨hbusy, ha, rfl⟩ | ⟨hbusy, ha, rfl⟩ := exec_newline_cases h
    · exact .drain hc hb hbusy
    · exact .endInput hc hb hbusy ha
    · exact .closeRow hc hb hbusy ha
  · obtain rfl := Host.Outcome.next.inj h
    exact .malformed hc hpass hstart hsplit hnewline

theorem CycleAction.of_action {s u : State} (h : action s = .next u) : CycleAction s u := by
  obtain ⟨hr, rfl⟩ | ⟨hr, hf, rfl⟩ | ⟨hr, hf, hw, rfl⟩ | ⟨hr, hf, hw, hv, rfl⟩ |
    ⟨hr, hf, hw, hv, hx⟩ | ⟨hr, hf, rfl⟩ := action_cases h
  · exact .reset hr
  · exact .fill hr (by simp [State.classifies, hf]) hf
  · exact .bubble hr (by simp [State.classifies, hw]) hf hw
  · exact .idle hr (by simp [State.classifies, hv]) hf hw hv
  · exact .of_exec (State.classifies_iff.mpr ⟨hr, hf, hw, hv⟩) hx
  · exact .hold hr (by obtain hf | hf := hf <;> simp [State.classifies, hf]) hf

/-- Every step is one of the cycle's actions, followed by what the end of every cycle adds. -/
theorem step_cases {s t : State} (h : step s = .next t) : ∃ u, CycleAction s u ∧ t = endCycle s u := by
  obtain ⟨u, hu, rfl⟩ := step_next_iff.mp h
  exact ⟨u, .of_action hu, rfl⟩

/-! ### The frames of the byte operations -/

/-- What the three grid bytes have in common: they advance the window by one column, and only SPLIT may count. -/
theorem exec_grid_eq {i : Instr} {s t : State} (hi : i = .pass ∨ i = .start ∨ i = .split) (h : exec i s = .next t) :
    ∃ trail v lead n, t = { nextColumn (advance trail v lead s) with resultPartA := n } ∧
      (i ≠ .split → n = s.resultPartA) := by
  obtain rfl | rfl | rfl := hi <;> obtain rfl := Host.Outcome.next.inj h
  · exact ⟨_, _, _, _, rfl, fun _ => rfl⟩
  · exact ⟨_, _, _, _, rfl, fun _ => rfl⟩
  · exact ⟨_, _, _, _, rfl, fun hn => absurd rfl hn⟩

/-- Settles O15: advancing moves the window only, and its retirement touches the trailing slot's cell alone. -/
theorem gridBytesFrame : Obligations.GridBytesFrame := by
  intro i s t hi hm h
  obtain ⟨trail, v, lead, n, rfl, hcount⟩ := exec_grid_eq hi h
  exact ⟨rfl, rfl, rfl, rfl, rfl, rfl, hcount, retire_read_trailing hm, retire_runningSum_of_not_en,
    fun _ => retire_read_other hm⟩

/-- Settles O16, by the three things a newline can do. -/
theorem newlineFrame : Obligations.NewlineFrame := by
  intro s t hm h
  obtain ⟨hbusy, rfl⟩ | ⟨hbusy, ha, rfl⟩ | ⟨hbusy, ha, rfl⟩ := exec_newline_cases h
  · exact ⟨rfl, rfl, rfl, rfl, rfl,
      fun _ => ⟨rfl, rfl, rfl, retire_read_trailing hm, retire_runningSum_of_not_en⟩,
      fun hidle => absurd hidle (by simp [hbusy]), fun _ hne => retire_read_other hm (hne hbusy)⟩
  · exact ⟨rfl, rfl, rfl, rfl, rfl, fun hb => absurd hb (by simp [hbusy]),
      fun _ => ⟨rfl, rfl, rfl, fun _ => ⟨ha.symm, rfl, rfl⟩, fun hne => absurd ha hne⟩, fun _ _ => rfl⟩
  · exact ⟨rfl, rfl, rfl, rfl, rfl, fun hb => absurd hb (by simp [hbusy]),
      fun _ => ⟨rfl, rfl, rfl, fun h0 => absurd h0 ha, fun _ => rfl⟩, fun _ _ => rfl⟩

/-! ### Who changes which register -/

/-- Settles O28, along the cycle's actions: the fill and the grid bytes count `addr` up, and the reset edge and a newline
on an empty window clear it. -/
theorem addressRegisterIsExact : Obligations.AddressRegisterIsExact := by
  intro s t h
  obtain ⟨u, hu, rfl⟩ := step_cases h
  cases hu with
  | reset hr => simp [hr]
  | fill hr hc hf => simp [hr, hf, fillCycle_addr]
  | bubble hr hc hf _ | idle hr hc hf _ _ => simp [hr, hc, hf]
  | hold hr hc hf => obtain hf | hf := hf <;> simp [hr, hc, hf]
  | pass hc hb | start hc hb | split hc hb => simp [State.rst_of_classifies hc, State.fsm_of_classifies hc, hc, hb]
  | drain hc hb hbusy =>
    obtain hslot | hslot := State.windowBusy_iff.mp hbusy <;>
      simp [State.rst_of_classifies hc, State.fsm_of_classifies hc, hb, hslot]
  | endInput hc hb hbusy _ | closeRow hc hb hbusy _ =>
    simp [State.rst_of_classifies hc, State.fsm_of_classifies hc, hc, hb, State.windowBusy_eq_false_iff.mp hbusy]
  | malformed hc hpass hstart hsplit hnewline =>
    simp [State.rst_of_classifies hc, State.fsm_of_classifies hc, hpass, hstart, hsplit, hnewline]

/-- Taking a split's count leaves the retirement's sum as it is. -/
theorem advance_countSplit_runningSum (trail : Slot) (v : Word) (lead : Slot) (s : State) :
    (advance trail v lead (countSplit s)).runningSum =
      if s.p0.en then s.runningSum + s.p0.value else s.runningSum := rfl

/-- Settles O29, along the cycle's actions: the grid bytes and a drain retire, and a closed row clears the sum. -/
theorem runningSumIsExact : Obligations.RunningSumIsExact := by
  intro s t h
  obtain ⟨u, hu, rfl⟩ := step_cases h
  cases hu with
  | reset hr => simp [hr]
  | fill hr hc _ | bubble hr hc _ _ | idle hr hc _ _ _ | hold hr hc _ => simp [hr, hc]
  | pass hc hb | start hc hb => simp [State.rst_of_classifies hc, hc, hb]
  | split hc hb => simp [State.rst_of_classifies hc, hc, hb, advance_countSplit_runningSum, -advance_runningSum]
  | drain hc hb hbusy =>
    simp [State.rst_of_classifies hc, hc, hb, State.windowBusy_iff.mp hbusy]
  | endInput hc hb hbusy ha | closeRow hc hb hbusy ha =>
    simp [State.rst_of_classifies hc, hc, hb, State.windowBusy_eq_false_iff.mp hbusy, ha]
  | malformed hc hpass hstart hsplit hnewline =>
    simp [State.rst_of_classifies hc, hpass, hstart, hsplit, hnewline]

/-- Settles O30, along the cycle's actions: SPLIT alone counts. -/
theorem splitCountIsExact : Obligations.SplitCountIsExact := by
  intro s t h
  obtain ⟨u, hu, rfl⟩ := step_cases h
  cases hu with
  | reset hr => simp [hr]
  | fill hr hc _ | bubble hr hc _ _ | idle hr hc _ _ _ | hold hr hc _ => simp [hr, hc]
  | pass hc hb | start hc hb => simp [State.rst_of_classifies hc, hb]
  | split hc hb => simp [State.rst_of_classifies hc, hc, hb]
  | drain hc hb _ | endInput hc hb _ _ | closeRow hc hb _ _ => simp [State.rst_of_classifies hc, hb]
  | malformed hc _ _ hsplit _ => simp [State.rst_of_classifies hc, hsplit]

/-- Settles O31, along the cycle's actions: the closing of a row alone writes the register. -/
theorem lastRowSumIsExact : Obligations.LastRowSumIsExact := by
  intro s t h
  obtain ⟨u, hu, rfl⟩ := step_cases h
  cases hu with
  | reset hr => simp [hr]
  | fill hr hc _ | bubble hr hc _ _ | idle hr hc _ _ _ | hold hr hc _ => simp [hr, hc]
  | pass hc hb | start hc hb | split hc hb => simp [State.rst_of_classifies hc, hb]
  | drain hc hb hbusy =>
    obtain hslot | hslot := State.windowBusy_iff.mp hbusy <;> simp [State.rst_of_classifies hc, hslot]
  | endInput hc hb hbusy ha | closeRow hc hb hbusy ha =>
    simp [State.rst_of_classifies hc, hc, hb, State.windowBusy_eq_false_iff.mp hbusy, ha]
  | malformed hc _ _ _ hnewline => simp [State.rst_of_classifies hc, hnewline]

/-- Settles O34: each output is a test of `fsm` or is the register itself. -/
theorem outputEquations : Obligations.OutputEquations :=
  fun _ => ⟨beq_iff_eq, beq_iff_eq, rfl, rfl⟩

/-! ### Driving the input ports -/

theorem exec_total (i : Instr) (s : State) : ∃ t, exec i s = .next t := by
  cases i with
  | pass => exact ⟨_, exec_pass s⟩
  | start => exact ⟨_, exec_start s⟩
  | split => exact ⟨_, exec_split s⟩
  | malformed b => exact ⟨_, exec_malformed b s⟩
  | newline =>
    simp only [exec, execNewline]
    split_ifs
    · exact ⟨_, rfl⟩
    · exact ⟨_, rfl⟩
    · exact ⟨_, rfl⟩

theorem action_total (s : State) : ∃ u, action s = .next u := by
  cases hr : s.rst with
  | true => exact ⟨resetEdge s, by simp [action, hr]⟩
  | false =>
    cases hf : s.fsm with
    | reset => exact ⟨fillCycle s, by simp [action, hr, hf]⟩
    | done | error => exact ⟨s, by simp [action, hr, hf]⟩
    | input =>
      cases hw : s.rdWait with
      | true => exact ⟨bubble s, by simp [action, hr, hf, hw]⟩
      | false =>
        cases hv : s.inValid with
        | false => exact ⟨s, by simp [action, hr, hf, hw, hv]⟩
        | true =>
          obtain ⟨u, hu⟩ := exec_total (decodeByte s.inData) s
          exact ⟨u, by simp [action, hr, hf, hw, hv, hu]⟩

theorem step_total (s : State) : ∃ t, step s = .next t := by
  obtain ⟨u, hu⟩ := action_total s
  exact ⟨endCycle s u, step_next_iff.mpr ⟨u, hu, rfl⟩⟩

/-- A beat that drives one cycle's levels is used up by that cycle, transferred or not. -/
theorem producerNext_beatOf (x : Bool) (w : Ports) (q : List Beat) : producerNext x (beatOf w :: q) = q := by
  cases hv : w.inValid <;> simp [beatOf, hv]

theorem ports_driven_cons (s : State) (w : Ports) (ws : List Ports) : (s.driven (w :: ws)).ports = w := by
  obtain ⟨r, v, d⟩ := w
  cases v <;> rfl

/-- One cycle of a driven state uses up the first entry of its waveform. -/
theorem step_driven_cons {s t : State} {w : Ports} {ws : List Ports} (h : step (s.driven (w :: ws)) = .next t) :
    t = t.driven ws := by
  obtain ⟨u, -, rfl⟩ := step_next_iff.mp h
  simp [State.driven, endCycle, producerNext_beatOf]

/-- Settles O37, by induction on the waveform. -/
theorem everyInputWaveformCanBeDriven : Obligations.EveryInputWaveformCanBeDriven := by
  intro ws
  induction ws with
  | nil => intro s k w hw; simp at hw
  | cons v ws ih =>
    intro s k w hw
    cases k with
    | zero =>
      obtain rfl : v = w := by simpa using hw
      exact ⟨_, run_zero _, ports_driven_cons s v ws⟩
    | succ k =>
      obtain ⟨t, ht⟩ := step_total (s.driven (v :: ws))
      rw [run_succ_of_step ht, step_driven_cons ht]
      exact ih t k w (by simpa using hw)

/-! ### Legality -/

@[simp] theorem Slot.canonical_empty : Slot.empty.canonical = true := rfl
@[simp] theorem Slot.canonical_live (a : Addr) (v : Word) : (Slot.live a v).canonical = true := rfl

/-- Power-on, whatever the array, the read register and the environment. -/
theorem powerOn_legal {m : Memory} (d : Word) (r : List Bool) (q : List Beat) (hm : m.wf = true) :
    { State.reset with mem := m, rdData := d, resetLine := r, producer := q }.Legal where
  memory := hm
  trailing := rfl
  current := rfl
  leading := rfl
  carryFollows := nofun
  filling _ := ⟨rfl, ⟨rfl, rfl, rfl⟩, ⟨rfl, rfl, rfl⟩, hm⟩
  pending := nofun

/-- Settles O41: the model's own reset state is one of the power-on states. -/
theorem powerOnIsLegal : Obligations.PowerOnIsLegal :=
  ⟨powerOn_legal _ _ _ reset_memory_wf, fun _ d r q hm => powerOn_legal d r q hm⟩

/-- Past the fill and with no read pending, legality is the canonical form of memory and window. -/
theorem State.Legal.of_settled {s : State} (hf : s.fsm ≠ .reset) (hw : s.rdWait = false) (hm : s.mem.wf = true)
    (h0 : s.p0.canonical = true) (h1 : s.p1.canonical = true) (h2 : s.p2.canonical = true)
    (hcarry : s.p2.en = true → s.p1.en = true) : s.Legal where
  memory := hm
  trailing := h0
  current := h1
  leading := h2
  carryFollows := hcarry
  filling h := absurd h hf
  pending h := absurd h (by simp [hw])

/-- Legality does not look at the read register or at the environment. -/
theorem State.Legal.endCycle {u : State} (h : u.Legal) (s : State) : (endCycle s u).Legal :=
  ⟨h.memory, h.trailing, h.current, h.leading, h.carryFollows, h.filling, h.pending⟩

theorem State.Legal.resetEdge {s : State} (h : s.Legal) : (resetEdge s).Legal where
  memory := h.memory
  trailing := rfl
  current := rfl
  leading := rfl
  carryFollows := nofun
  filling _ := ⟨rfl, ⟨rfl, rfl, rfl⟩, ⟨rfl, rfl, rfl⟩, h.memory⟩
  pending := nofun

/-- One more cell is filled; after the last one the array is all zero. -/
theorem State.Legal.fillCycle {s : State} (h : s.Legal) (hf : s.fsm = .reset) : (fillCycle s).Legal := by
  obtain ⟨hw, hempty, hzero, hfilled⟩ := h.filling hf
  have hnext : Memory.wfFrom (s.addr.toNat + 1) (s.mem.write s.addr 0#64) = true := Memory.wfFrom_fill hfilled
  by_cases hlast : s.addr = lastCell
  · have hnil : s.mem.write s.addr 0#64 = [] := by
      rw [hlast] at hnext ⊢
      exact Memory.eq_nil_of_wfFrom_depth hnext
    rw [fillCycle_last hlast]
    exact ⟨Memory.wf_of_wfFrom hnext, h.trailing, h.current, h.leading, h.carryFollows, nofun,
      fun _ => ⟨rfl, rfl, hempty, hzero, hnil⟩⟩
  · have haddr : (s.addr + 1#8).toNat = s.addr.toNat + 1 := by
      rw [lastCell_eq] at hlast
      bv_omega
    rw [fillCycle_more hlast]
    exact ⟨Memory.wf_of_wfFrom hnext, h.trailing, h.current, h.leading, h.carryFollows,
      fun _ => ⟨hw, hempty, hzero, haddr ▸ hnext⟩, fun hp => absurd hp (by simp [hw])⟩

theorem State.Legal.bubble {s : State} (h : s.Legal) (hf : s.fsm = .input) : (bubble s).Legal :=
  .of_settled (by simp [hf]) rfl h.memory h.trailing h.current h.leading h.carryFollows

/-- Advancing in `INPUT` keeps a state legal when the new outer slots are canonical. -/
theorem advance_legal {s : State} {trail lead : Slot} (v : Word) (hf : s.fsm = .input) (hw : s.rdWait = false)
    (hm : s.mem.wf = true) (ht : trail.canonical = true) (hl : lead.canonical = true) :
    (nextColumn (advance trail v lead s)).Legal :=
  .of_settled (by simp [hf]) hw (retire_mem_wf hm) ht rfl hl fun _ => rfl

theorem State.Legal.drain {s : State} (h : s.Legal) (hf : s.fsm = .input) (hw : s.rdWait = false) :
    (drain s).Legal :=
  .of_settled (by simp [hf]) hw (retire_mem_wf h.memory) h.current h.leading rfl nofun

/-- Every cycle keeps a state legal, whatever the environment does. -/
theorem step_keeps_legal {s t : State} (h : s.Legal) (hs : step s = .next t) : t.Legal := by
  obtain ⟨u, hu, rfl⟩ := step_cases hs
  refine State.Legal.endCycle ?_ s
  cases hu with
  | reset _ => exact h.resetEdge
  | fill _ _ hf => exact h.fillCycle hf
  | bubble _ _ hf _ => exact h.bubble hf
  | idle _ _ _ _ _ | hold _ _ _ => exact h
  | pass hc _ | start hc _ =>
    exact advance_legal _ (State.fsm_of_classifies hc) (State.rdWait_of_classifies hc) h.memory h.current rfl
  | split hc _ =>
    exact advance_legal _ (State.fsm_of_classifies hc) (State.rdWait_of_classifies hc) h.memory rfl rfl
  | drain hc _ _ => exact h.drain (State.fsm_of_classifies hc) (State.rdWait_of_classifies hc)
  | endInput hc _ _ _ | malformed hc _ _ _ _ =>
    have hw : s.rdWait = false := State.rdWait_of_classifies hc
    exact .of_settled nofun hw h.memory h.trailing h.current h.leading h.carryFollows
  | closeRow hc _ _ _ =>
    have hw : s.rdWait = false := State.rdWait_of_classifies hc
    exact .of_settled (by simp [State.fsm_of_classifies hc]) hw h.memory h.trailing h.current h.leading
      h.carryFollows

/-! ### The producer's duty -/

theorem producerNext_dutiful {q : List Beat} (x : Bool) (h : q.all Beat.dutiful = true) :
    (producerNext x q).all Beat.dutiful = true := by
  match q, h with
  | [], _ => rfl
  | .pause _ :: _, h => exact h
  | .pulse _ :: _, h => exact absurd h (by simp [Beat.dutiful])
  | .offer _ :: _, h => cases x <;> exact h

theorem step_keeps_dutiful {s t : State} (h : s.dutiful = true) (hs : step s = .next t) : t.dutiful = true := by
  obtain ⟨u, -, rfl⟩ := step_next_iff.mp hs
  exact producerNext_dutiful s.xfer h

/-- A byte that a dutiful producer presents is an offered one. -/
theorem State.producer_eq_offer {s : State} (hd : s.dutiful = true) (hv : s.inValid = true) :
    ∃ q, s.producer = .offer s.inData :: q := by
  unfold State.dutiful at hd
  unfold State.inValid at hv
  unfold State.inData
  match hp : s.producer with
  | [] | .pause _ :: _ => simp [hp] at hv
  | .pulse _ :: _ => simp [hp, Beat.dutiful] at hd
  | .offer _ :: q => exact ⟨q, rfl⟩

theorem State.inValid_of_newlineOffered {s : State} (h : s.newlineOffered) : s.inValid = true := by
  obtain ⟨q, hq⟩ := List.head?_eq_some_iff.mp h
  simp [State.inValid, hq]

theorem State.inData_of_newlineOffered {s : State} (h : s.newlineOffered) : s.inData = 0x0A#8 := by
  obtain ⟨q, hq⟩ := List.head?_eq_some_iff.mp h
  simp [State.inData, hq, byteNewline]

/-- A newline on a busy window is not transferred (R95). -/
theorem State.xfer_of_drain {s : State} (hb : s.inData = 0x0A#8) (hbusy : s.windowBusy = true) : s.xfer = false := by
  have hslots := State.windowBusy_iff.mp hbusy
  have hready : s.inReady = false := Bool.eq_false_iff.mpr fun hr => by
    obtain ⟨-, -, hnot⟩ := State.readyFor_iff.mp hr
    exact hnot ⟨hb, hslots⟩
  simp [State.xfer, hready]

/-- The newline that drains the window is still offered in the next cycle. -/
theorem newlineOffered_after_drain {s : State} (u : State) (hd : s.dutiful = true) (hv : s.inValid = true)
    (hb : s.inData = 0x0A#8) (hbusy : s.windowBusy = true) : (endCycle s u).newlineOffered := by
  obtain ⟨q, hq⟩ := State.producer_eq_offer hd hv
  simp [State.newlineOffered, State.xfer_of_drain hb hbusy, hq, hb, byteNewline]

/-! ### The window's alignment and the fresh read -/

/-- With no newline waiting, a state past the bubble is aligned and its read is fresh. -/
theorem State.Streaming.aligned_and_fresh {s : State} (h : s.Streaming) (hf : s.fsm = .input) (hw : s.rdWait = false)
    (hn : ¬ s.newlineOffered) : s.Aligned ∧ s.Fresh :=
  (h.ready hf hw).resolve_left hn

/-- A cycle that classifies another byte than a newline is aligned and its read is fresh. -/
theorem State.Streaming.aligned_and_fresh_of_classifies {s : State} (h : s.Streaming) (hc : s.classifies = true)
    (hb : s.inData ≠ 0x0A#8) : s.Aligned ∧ s.Fresh :=
  h.aligned_and_fresh (State.fsm_of_classifies hc) (State.rdWait_of_classifies hc)
    fun hn => hb (State.inData_of_newlineOffered hn)

/-- With no slot enabled, alignment says that the row has not begun. -/
theorem State.Aligned.of_no_slot {s : State} (h0 : s.p0.en = false) (h1 : s.p1.en = false) (h2 : s.p2.en = false)
    (ha : s.addr = 0#8) : s.Aligned where
  trailing h := absurd h (by simp [h0])
  current h := absurd h (by simp [h1])
  leading h := absurd h (by simp [h2])
  rowStart _ := ha

/-- Advancing aligns the window with the next column. -/
theorem advance_aligned {s : State} {trail lead : Slot} (v : Word) (ht : trail.en = true → trail.addr = s.addr - 1#8)
    (hl : lead.en = true → lead.addr = s.addr + 1#8) : (nextColumn (advance trail v lead s)).Aligned where
  trailing h := ⟨by
    have htrail : trail.addr = s.addr - 1#8 := ht h
    simp only [nextColumn_p0, advance_p0, nextColumn_addr, advance_addr, htrail]
    bv_omega, rfl⟩
  current _ := by
    simp only [nextColumn_p1, advance_p1, Slot.live_addr, nextColumn_addr, advance_addr]
    bv_omega
  leading h := ⟨hl h, rfl⟩
  rowStart := nofun

/-- A retirement does not touch the cell that the read port loads for the next column: it lies three columns back. -/
theorem State.Aligned.retire_read_next {s : State} (h : s.Aligned) (hm : s.mem.wf = true) :
    (retire s).mem.read (s.addr + 1#8) = s.mem.read (s.addr + 1#8) := by
  refine retire_read_other hm fun he => ?_
  obtain ⟨htrail, -⟩ := h.trailing he
  rw [htrail]
  bv_omega

/-- Alignment looks at the window and at `addr` alone. -/
theorem State.Aligned.endCycle {u : State} (h : u.Aligned) (s : State) : (endCycle s u).Aligned :=
  ⟨h.trailing, h.current, h.leading, h.rowStart⟩

/-- The read that ends a cycle is fresh when the cycle's action left the cell it loads alone. -/
theorem fresh_endCycle {s u : State} (h : u.mem.read u.addr = s.mem.read u.addr) : (endCycle s u).Fresh :=
  h.symm

/-- With a producer that keeps R91, the next cycle is aligned and fresh again, or a newline waits. -/
theorem step_keeps_ready {s t : State} (h : s.Streaming) (hs : step s = .next t) (hf' : t.fsm = .input)
    (hw' : t.rdWait = false) : t.newlineOffered ∨ (t.Aligned ∧ t.Fresh) := by
  obtain ⟨u, hu, rfl⟩ := step_cases hs
  cases hu with
  | reset _ | endInput _ _ _ _ | malformed _ _ _ _ _ => nomatch hf'
  | hold _ _ hf =>
    obtain hf | hf := hf <;> exact nomatch hf.symm.trans hf'
  | fill _ _ hf =>
    by_cases hlast : s.addr = lastCell
    · rw [fillCycle_last hlast] at hw'
      nomatch hw'
    · rw [fillCycle_more hlast] at hf'
      exact nomatch hf.symm.trans hf'
  | bubble _ _ _ hw =>
    obtain ⟨-, haddr, ⟨h0, h1, h2⟩, -, -⟩ := h.legal.pending hw
    have haligned : (bubble s).Aligned := .of_no_slot (by simp [h0]) (by simp [h1]) (by simp [h2]) haddr
    exact .inr ⟨haligned.endCycle s, fresh_endCycle rfl⟩
  | idle _ _ hf hw hv =>
    have hn : ¬ s.newlineOffered := fun hn => by simp [State.inValid_of_newlineOffered hn] at hv
    obtain ⟨haligned, -⟩ := h.aligned_and_fresh hf hw hn
    exact .inr ⟨haligned.endCycle s, fresh_endCycle rfl⟩
  | pass hc hb | start hc hb =>
    obtain ⟨haligned, -⟩ := h.aligned_and_fresh_of_classifies hc (by simp [hb])
    exact .inr ⟨(advance_aligned (lead := Slot.empty) _ haligned.current nofun).endCycle s,
      fresh_endCycle (haligned.retire_read_next h.legal.memory)⟩
  | split hc hb =>
    obtain ⟨haligned, -⟩ := h.aligned_and_fresh_of_classifies hc (by simp [hb])
    exact .inr ⟨(advance_aligned _ (fun _ => rfl) fun _ => rfl).endCycle s,
      fresh_endCycle (haligned.retire_read_next h.legal.memory)⟩
  | drain hc hb hbusy =>
    exact .inl (newlineOffered_after_drain _ h.duty (State.inValid_of_classifies hc) hb hbusy)
  | closeRow _ _ hbusy _ =>
    obtain ⟨h0, h1⟩ := State.windowBusy_eq_false_iff.mp hbusy
    have h2 : s.p2.en = false := Bool.eq_false_iff.mpr fun h2 => by simp [h.legal.carryFollows h2] at h1
    have haligned : (closeRow s).Aligned := .of_no_slot h0 h1 h2 rfl
    exact .inr ⟨haligned.endCycle s, fresh_endCycle rfl⟩

/-- Settles O42: legality, the producer's duty and the readiness of the window are each kept by every cycle. -/
theorem everyStepKeepsStreaming : Obligations.EveryStepKeepsStreaming :=
  fun _ _ h hs => ⟨step_keeps_legal h.legal hs, step_keeps_dutiful h.duty hs, step_keeps_ready h hs⟩

/-- Settles O43: power-on is in `RESET`, where nothing has to be aligned yet. -/
theorem powerOnIsStreaming : Obligations.PowerOnIsStreaming :=
  fun _ d r q hm hq => ⟨powerOn_legal d r q hm, hq, nofun⟩

/-- Settles O44: a grid byte is no newline, so the streaming invariant gives the alignment and the fresh read. -/
theorem gridByteCyclesSeeTheirColumn : Obligations.GridByteCyclesSeeTheirColumn := by
  intro s h hc hb
  have hn : s.inData ≠ 0x0A#8 := by obtain hb | hb | hb := hb <;> simp [hb]
  obtain ⟨haligned, hfresh⟩ := h.aligned_and_fresh_of_classifies hc hn
  exact ⟨haligned.current, haligned.leading, fun he => (haligned.trailing he).1, hfresh⟩

end Sys2Proof.Machine

/-! SUPPORT. The statements about the memory ports: what a cycle loads through the read port, and what it may write to
the array. Both follow from the inversion of a cycle (`step_cases`). -/

namespace Sys2Proof.Machine

/-! ### The read port -/

/-- Settles O24: whatever the action was, the end of the cycle loads the read register. -/
theorem readPortReloadsEveryCycle : Obligations.ReadPortReloadsEveryCycle := by
  intro s t h
  obtain ⟨u, -, rfl⟩ := step_next_iff.mp h
  exact endCycle_rdData u s

/-! ### The write port -/

theorem fillCycle_mem (s : State) : (fillCycle s).mem = s.mem.write s.addr 0#64 := by
  unfold fillCycle; split <;> rfl

/-- A cycle's action leaves the array alone, fills the cell at `addr`, or retires the trailing slot (R51). -/
theorem CycleAction.mem_cases {s u : State} (h : CycleAction s u) :
    u.mem = s.mem ∨
    (s.rst = false ∧ s.fsm = .reset ∧ u.mem = s.mem.write s.addr 0#64) ∨
    (s.classifies = true ∧ u.mem = (retire s).mem) := by
  cases h with
  | reset _ | bubble _ _ _ _ | idle _ _ _ _ _ | hold _ _ _ => exact .inl rfl
  | fill hr _ hf => exact .inr (.inl ⟨hr, hf, fillCycle_mem s⟩)
  | pass hc _ | start hc _ | split hc _ | drain hc _ _ => exact .inr (.inr ⟨hc, rfl⟩)
  | endInput _ _ _ _ | closeRow _ _ _ _ | malformed _ _ _ _ _ => exact .inl rfl

/-- The cell that a write changes is the written one. -/
theorem Memory.eq_of_read_write_ne {m : Memory} (hm : m.wf = true) {a b : Addr} {v : Word}
    (h : (m.write a v).read b ≠ m.read b) : b = a := by
  by_contra hne
  exact h (Memory.read_write_other hm v hne)

/-- The cell that a retirement changes is the enabled trailing slot's own. -/
theorem retire_changed_cell {s : State} (hm : s.mem.wf = true) {a : Addr}
    (h : (retire s).mem.read a ≠ s.mem.read a) : s.p0.en = true ∧ a = s.p0.addr := by
  by_contra hne
  exact h (retire_read_other hm fun he ha => hne ⟨he, ha⟩)

/-- Settles O25, by what a cycle's action can do to the array. -/
theorem onlyTwoThingsWriteMemory : Obligations.OnlyTwoThingsWriteMemory := by
  intro s t a hm hs hne
  obtain ⟨u, hu, rfl⟩ := step_cases hs
  rw [endCycle_mem] at hne ⊢
  obtain hmem | ⟨hr, hf, hmem⟩ | ⟨hc, hmem⟩ := hu.mem_cases <;> rw [hmem] at hne ⊢
  · exact absurd rfl hne
  · obtain rfl := Memory.eq_of_read_write_ne hm hne
    exact ⟨hr, .inl ⟨hf, rfl, Memory.read_write_same hm _ _⟩⟩
  · obtain ⟨he, rfl⟩ := retire_changed_cell hm hne
    obtain ⟨hr, hf, hw, hv⟩ := State.classifies_iff.mp hc
    exact ⟨hr, .inr ⟨hf, hw, hv, he, rfl, retire_read_trailing hm he⟩⟩

end Sys2Proof.Machine

/-! SUPPORT. The statements about the encoding: the byte and its instruction determine each other, so programs and byte
streams do (`decodeByte_eq_iff`). -/

namespace Sys2Proof

/-! ### One byte -/

theorem decode_cons (b : Byte) (rest : List Byte) : decode (b :: rest) = .ok (decodeByte b, rest) := rfl

theorem encode_eq (i : Instr) : encode i = [encodeByte i] := rfl

/-- A byte carried by a well-formed `malformed` is none of R72's four. -/
theorem wellFormed_malformed_iff {d : Byte} :
    (Instr.malformed d).wellFormed = true ↔ d ≠ 0x2E#8 ∧ d ≠ 0x53#8 ∧ d ≠ 0x5E#8 ∧ d ≠ 0x0A#8 := by
  simp [Instr.wellFormed, recognisedBytes]

theorem decode_encode (i : Instr) : Laws.DecodeEncode.Statement i := by
  cases i with
  | pass => exact Laws.DecodeEncode.pass
  | start => exact Laws.DecodeEncode.start
  | split => exact Laws.DecodeEncode.split
  | newline => exact Laws.DecodeEncode.newline
  | malformed b => exact Laws.DecodeEncode.malformed b

theorem decodeByte_encodeByte {i : Instr} (h : i.wellFormed = true) : decodeByte (encodeByte i) = i := by
  have hd : decode [encodeByte i] = .ok (i, []) := decode_encode i h []
  rw [decode_cons] at hd
  exact congrArg Prod.fst (Except.ok.inj hd)

theorem encodeByte_decodeByte (b : Byte) : encodeByte (decodeByte b) = b := by
  obtain ⟨hb, hd⟩ | ⟨hb, hd⟩ | ⟨hb, hd⟩ | ⟨hb, hd⟩ | ⟨-, hd⟩ := Machine.decodeByte_cases b <;> rw [hd]
  · exact hb.symm
  · exact hb.symm
  · exact hb.symm
  · exact hb.symm
  · rfl

theorem decodeByte_wellFormed (b : Byte) : (decodeByte b).wellFormed = true := by
  obtain ⟨-, hd⟩ | ⟨-, hd⟩ | ⟨-, hd⟩ | ⟨-, hd⟩ | ⟨hb, hd⟩ := Machine.decodeByte_cases b <;> rw [hd]
  · rfl
  · rfl
  · rfl
  · rfl
  · exact wellFormed_malformed_iff.mpr hb

/-- The two directions at once: the class of a byte is the one well-formed instruction that encodes to it. -/
theorem decodeByte_eq_iff {b : Byte} {i : Instr} : decodeByte b = i ↔ i.wellFormed = true ∧ b = encodeByte i := by
  constructor
  · rintro rfl
    exact ⟨decodeByte_wellFormed b, (encodeByte_decodeByte b).symm⟩
  · rintro ⟨hi, rfl⟩
    exact decodeByte_encodeByte hi

theorem decodeTableWord_eq_some_iff {nbits w : Nat} {i : Instr} :
    decodeTableWord nbits w = some i ↔ i.wellFormed = true ∧ tableByte nbits w = encodeByte i := by
  have hw : decodeTableWord nbits w = some (decodeByte (tableByte nbits w)) := rfl
  rw [hw, Option.some_inj, decodeByte_eq_iff]

/-! ### Streams -/

theorem encodeStream_cons (i : Instr) (p : List Instr) : encodeStream (i :: p) = encodeByte i :: encodeStream p := rfl

theorem decodeStream_cons (b : Byte) (bs : List Byte) : decodeStream (b :: bs) = decodeByte b :: decodeStream bs := rfl

theorem decodeStream_encodeStream {p : List Instr} (h : ∀ i ∈ p, i.wellFormed = true) :
    decodeStream (encodeStream p) = p := by
  induction p with
  | nil => rfl
  | cons i p ih =>
    obtain ⟨hi, hp⟩ := List.forall_mem_cons.mp h
    rw [encodeStream_cons, decodeStream_cons, decodeByte_encodeByte hi, ih hp]

theorem encodeStream_length (p : List Instr) : (encodeStream p).length = p.length := by
  induction p with
  | nil => rfl
  | cons i p ih => rw [encodeStream_cons, List.length_cons, List.length_cons, ih]

theorem encodeStream_decodeStream (bs : List Byte) : encodeStream (decodeStream bs) = bs := by
  induction bs with
  | nil => rfl
  | cons b bs ih => rw [decodeStream_cons, encodeStream_cons, encodeByte_decodeByte, ih]

theorem decodeStream_wellFormed (bs : List Byte) : ∀ i ∈ decodeStream bs, i.wellFormed = true :=
  List.forall_mem_map.mpr fun b _ => decodeByte_wellFormed b

/-! ### The obligations -/

/-- Settles O3: each direction lifts its fact about one byte to streams, by induction. -/
theorem programsAndByteStreamsCorrespond : Obligations.ProgramsAndByteStreamsCorrespond := by
  refine ⟨fun p h => ⟨decodeStream_encodeStream h, encodeStream_length p⟩,
    fun bs => ⟨encodeStream_decodeStream bs, decodeStream_wellFormed bs⟩, fun b bs => ⟨decode_cons b bs, ?_⟩⟩
  rw [encode_eq, encodeByte_decodeByte]

/-- Settles O1: a byte's class is the well-formed instruction that encodes to it, so each clause reads off a code. -/
theorem byteClassesAreExact : Obligations.ByteClassesAreExact := by
  intro b
  have hrecognised {i : Instr} (hi : i.wellFormed = true) : decodeByte b = i ↔ b = encodeByte i :=
    decodeByte_eq_iff.trans (and_iff_right hi)
  refine ⟨hrecognised rfl, hrecognised rfl, hrecognised rfl, hrecognised rfl, fun d => ?_⟩
  rw [decodeByte_eq_iff, wellFormed_malformed_iff]
  constructor
  · rintro ⟨hd, rfl⟩
    exact ⟨rfl, hd⟩
  · rintro ⟨rfl, hd⟩
    exact ⟨hd, rfl⟩

/-- Settles O2: each word is the code of a well-formed instruction. -/
theorem tableWordsDecode : Obligations.TableWordsDecode := by
  simp only [Obligations.TableWordsDecode, decodeTableWord_eq_some_iff]
  decide

end Sys2Proof

/-! SUPPORT. The statements about a cycle and the byte presented in it: the classifying cycle runs the byte's
instruction, and no other cycle's action depends on the producer. -/

namespace Sys2Proof.Machine

/-! ### The action of each kind of cycle -/

theorem action_of_classifies {s : State} (h : s.classifies = true) : action s = exec (decodeByte s.inData) s := by
  obtain ⟨hr, hf, hw, hv⟩ := State.classifies_iff.mp h
  simp [action, hr, hf, hw, hv]

theorem action_of_rst {s : State} (hr : s.rst = true) : action s = .next (resetEdge s) := by
  simp [action, hr]

theorem action_of_reset {s : State} (hr : s.rst = false) (hf : s.fsm = .reset) : action s = .next (fillCycle s) := by
  simp [action, hr, hf]

theorem action_of_terminal {s : State} (hr : s.rst = false) (hf : s.fsm = .done ∨ s.fsm = .error) :
    action s = .next s := by
  obtain hf | hf := hf <;> simp [action, hr, hf]

theorem action_of_rdWait {s : State} (hr : s.rst = false) (hf : s.fsm = .input) (hw : s.rdWait = true) :
    action s = .next (bubble s) := by
  simp [action, hr, hf, hw]

theorem action_of_idle {s : State} (hc : s.classifies = false) (hr : s.rst = false) (hf : s.fsm = .input)
    (hw : s.rdWait = false) : action s = .next s := by
  have hv : s.inValid = false := by simpa [State.classifies, hr, hf, hw] using hc
  simp [action, hr, hf, hw, hv]

/-! ### What the producer can change -/

theorem fillCycle_withProducer (s : State) (q : List Beat) :
    fillCycle { s with producer := q } = { fillCycle s with producer := q } := by
  by_cases h : s.addr = lastCell
  · rw [fillCycle_last h, fillCycle_last (s := { s with producer := q }) h]
  · rw [fillCycle_more h, fillCycle_more (s := { s with producer := q }) h]

/-- Between two producers whose byte is not classified, the action differs in the producer alone. -/
theorem action_withProducer {s u : State} {q : List Beat} (hc : s.classifies = false)
    (hq : { s with producer := q }.classifies = false) (h : action s = .next u) :
    action { s with producer := q } = .next { u with producer := q } := by
  cases CycleAction.of_action h with
  | reset hr => exact action_of_rst hr
  | fill hr _ hf =>
    have hfill := action_of_reset (s := { s with producer := q }) hr hf
    exact hfill.trans (congrArg _ (fillCycle_withProducer s q))
  | bubble hr _ hf hw => exact action_of_rdWait hr hf hw
  | idle hr _ hf hw _ => exact action_of_idle hq hr hf hw
  | hold hr _ hf => exact action_of_terminal hr hf
  | pass hs _ | start hs _ | split hs _ | drain hs _ _ | endInput hs _ _ _ | closeRow hs _ _ _
  | malformed hs _ _ _ _ => exact absurd hs (by simp [hc])

/-- Settles O5: the two actions differ in the producer alone, and the end of a cycle reads it for the producer alone. -/
theorem unclassifiedInputChangesNothing : Obligations.UnclassifiedInputChangesNothing := by
  intro s q hc hq
  obtain ⟨u, hu⟩ := action_total s
  exact ⟨_, _, step_next_iff.mpr ⟨u, hu, rfl⟩, step_next_iff.mpr ⟨_, action_withProducer hc hq hu, rfl⟩, rfl⟩

/-- Settles O4: the action of a classifying cycle is `exec`, and the end of the cycle is the rest. -/
theorem stepRunsTheClassifiedByte : Obligations.StepRunsTheClassifiedByte := by
  intro s hr hf hw hv
  have haction := action_of_classifies (State.classifies_iff.mpr ⟨hr, hf, hw, hv⟩)
  obtain ⟨t, ht⟩ := exec_total (decodeByte s.inData) s
  exact ⟨decodeByte_wellFormed s.inData, t, ht, step_next_iff.mpr ⟨t, haction.trans ht, rfl⟩⟩

end Sys2Proof.Machine

/-! SUPPORT. The statements about the flow-controlled channel: when the core is ready, and what becomes of an offered
byte. With a byte offered, the transfer condition is `in_ready` alone (`State.xfer_of_offer`). -/

namespace Sys2Proof.Machine

/-! ### An offered byte -/

theorem State.inValid_of_offer {s : State} {b : Byte} {q : List Beat} (h : s.producer = .offer b :: q) :
    s.inValid = true := by
  simp [State.inValid, h]

theorem State.inData_of_offer {s : State} {b : Byte} {q : List Beat} (h : s.producer = .offer b :: q) :
    s.inData = b := by
  simp [State.inData, h]

theorem State.xfer_of_offer {s : State} {b : Byte} {q : List Beat} (h : s.producer = .offer b :: q) :
    s.xfer = s.inReady := by
  rw [State.xfer, State.inValid_of_offer h, Bool.true_and]

/-! ### What one cycle does to the producer -/

theorem step_producer {s t : State} (h : step s = .next t) : t.producer = producerNext s.xfer s.producer := by
  obtain ⟨u, -, rfl⟩ := step_next_iff.mp h
  exact endCycle_producer u s

theorem step_producer_of_offer_ready {s t : State} {b : Byte} {q : List Beat} (hq : s.producer = .offer b :: q)
    (hr : s.inReady = true) (h : step s = .next t) : t.producer = q := by
  rw [step_producer h, State.xfer_of_offer hq, hr, hq, producerNext_offer_taken]

theorem step_producer_of_offer_not_ready {s t : State} {b : Byte} {q : List Beat} (hq : s.producer = .offer b :: q)
    (hr : s.inReady = false) (h : step s = .next t) : t.producer = .offer b :: q := by
  rw [step_producer h, State.xfer_of_offer hq, hr, hq, producerNext_offer_held]

theorem step_of_rst {s : State} (hr : s.rst = true) : step s = .next (endCycle s (resetEdge s)) :=
  step_next_iff.mpr ⟨_, action_of_rst hr, rfl⟩

/-! ### The obligations -/

/-- Settles O36: a byte that a dutiful producer presents is an offered one, and an offered byte that is not accepted
stays at the head of the producer. -/
theorem dutifulProducerHoldsItsByte : Obligations.DutifulProducerHoldsItsByte := by
  intro s t hd hs
  refine ⟨step_keeps_dutiful hd hs, fun hv hr => ?_⟩
  obtain ⟨q, hq⟩ := State.producer_eq_offer hd hv
  have ht := step_producer_of_offer_not_ready hq hr hs
  exact ⟨State.inValid_of_offer ht, State.inData_of_offer ht⟩

/-- Settles O19: the reset edge takes nothing from the producer, so with and without the byte it gives one core. -/
theorem resetCycleTransferIsLost : Obligations.ResetCycleTransferIsLost := by
  intro s b q hrst hq hr
  have hs := step_of_rst hrst
  exact ⟨_, _, hs, step_of_rst (s := { s with producer := [] }) hrst, step_producer_of_offer_ready hq hr hs, rfl⟩

/-- Settles O33: R95's equation is `State.readyFor_iff`, and `readyFor` takes nothing from the environment. -/
theorem inReadyIsExact : Obligations.InReadyIsExact :=
  fun _ _ => ⟨State.readyFor_iff, rfl, fun _ _ => rfl⟩

/-- Settles O35: with a byte offered, `in_ready` alone decides whether the cycle's edge takes it. -/
theorem transferIffValidAndReady : Obligations.TransferIffValidAndReady := by
  intro s t b q hq hs
  refine ⟨State.inValid_of_offer hq, State.inData_of_offer hq, fun hr => step_producer_of_offer_ready hq hr hs,
    fun hr => ?_⟩
  have ht := step_producer_of_offer_not_ready hq hr hs
  exact ⟨ht, State.inValid_of_offer ht, State.inData_of_offer ht⟩

end Sys2Proof.Machine

/-! SUPPORT. The statements about the pipeline window: legality, holding and draining, the row's close, and the total
mass. The mass of R114 is rewritten once (`State.mass_eq`) into the array's total less what the window shadows, and one
lemma (`mass_of_retired`) says what any cycle that retires does to it. -/

namespace Sys2Proof.Machine

/-! ### Legality -/

/-- Settles O40: `step_keeps_legal` goes through the cycle's actions. -/
theorem everyStepKeepsLegality : Obligations.EveryStepKeepsLegality :=
  fun _ _ h hs => step_keeps_legal h hs

/-! ### Holding the window -/

@[simp] theorem fillCycle_p0 (s : State) : (fillCycle s).p0 = s.p0 := by
  unfold fillCycle; split <;> rfl

@[simp] theorem fillCycle_p1 (s : State) : (fillCycle s).p1 = s.p1 := by
  unfold fillCycle; split <;> rfl

@[simp] theorem fillCycle_p2 (s : State) : (fillCycle s).p2 = s.p2 := by
  unfold fillCycle; split <;> rfl

/-- The cycle advances the window (R111) or drains it (R112): it classifies a grid byte, or a newline on a busy
window. -/
def State.movesWindow (s : State) : Prop :=
  s.classifies = true ∧
    (s.inData = 0x2E#8 ∨ s.inData = 0x53#8 ∨ s.inData = 0x5E#8 ∨
      (s.inData = 0x0A#8 ∧ (s.p0.en = true ∨ s.p1.en = true)))

/-- What R113 asks of a cycle's action: the slots stay, and nothing is retired. -/
structure HoldsWindow (s u : State) : Prop where
  trailing : u.p0 = s.p0
  current : u.p1 = s.p1
  leading : u.p2 = s.p2
  mem : s.fsm ≠ .reset → u.mem = s.mem
  runningSum : u.runningSum = s.runningSum ∨ u.runningSum = 0#64

/-- Every action but the reset edge, an advance and a drain holds the window. -/
theorem CycleAction.holdsWindow {s u : State} (h : CycleAction s u) (hr : s.rst = false) (hn : ¬ s.movesWindow) :
    HoldsWindow s u := by
  cases h with
  | reset hrst => exact absurd hrst (by simp [hr])
  | fill _ _ hf => exact ⟨by simp, by simp, by simp, fun hne => absurd hf hne, .inl (by simp)⟩
  | pass hc hb => exact absurd ⟨hc, .inl hb⟩ hn
  | start hc hb => exact absurd ⟨hc, .inr (.inl hb)⟩ hn
  | split hc hb => exact absurd ⟨hc, .inr (.inr (.inl hb))⟩ hn
  | drain hc hb hbusy => exact absurd ⟨hc, .inr (.inr (.inr ⟨hb, State.windowBusy_iff.mp hbusy⟩))⟩ hn
  | closeRow _ _ _ _ => exact ⟨rfl, rfl, rfl, fun _ => rfl, .inr rfl⟩
  | bubble _ _ _ _ | idle _ _ _ _ _ | hold _ _ _ | endInput _ _ _ _ | malformed _ _ _ _ _ =>
    exact ⟨rfl, rfl, rfl, fun _ => rfl, .inl rfl⟩

theorem step_holdsWindow {s t : State} (hs : step s = .next t) (hr : s.rst = false) (hn : ¬ s.movesWindow) :
    HoldsWindow s t := by
  obtain ⟨u, hu, rfl⟩ := step_cases hs
  obtain ⟨h0, h1, h2, hmem, hsum⟩ := hu.holdsWindow hr hn
  exact ⟨h0, h1, h2, hmem, hsum⟩

/-- Settles O32: the reset edge empties the window, and every other action that does not move it holds it. -/
theorem windowHoldsOtherwise : Obligations.WindowHoldsOtherwise := by
  intro s t hs
  refine ⟨fun hr => ?_, fun hr hn => ?_⟩
  · obtain rfl := Host.Outcome.next.inj ((step_of_rst hr).symm.trans hs)
    exact ⟨rfl, rfl, rfl, rfl⟩
  · obtain ⟨h0, h1, h2, hmem, hsum⟩ := step_holdsWindow hs hr hn
    exact ⟨h0, h1, h2, hmem, hsum⟩

/-! ### The newline -/

theorem exec_newline_of_busy {s : State} (h : s.windowBusy = true) : exec .newline s = .next (drain s) := by
  simp [exec, execNewline, h]

theorem exec_newline_of_rowEnd {s : State} (h : s.windowBusy = false) (ha : s.addr ≠ 0#8) :
    exec .newline s = .next (closeRow s) := by
  simp [exec, execNewline, h, ha]

/-- Settles O11: a busy window is one with its trailing or its current slot enabled, and it drains. -/
theorem newlineDrainResult : Obligations.NewlineDrainResult :=
  fun _ h => exec_newline_of_busy (State.windowBusy_iff.mpr h)

/-- A cycle that classifies a byte is the byte's meaning followed by the end of the cycle. -/
theorem step_of_exec {s u : State} {i : Instr} (hc : s.classifies = true) (hd : decodeByte s.inData = i)
    (hx : exec i s = .next u) : step s = .next (endCycle s u) :=
  step_next_iff.mpr ⟨u, by rw [action_of_classifies hc, hd, hx], rfl⟩

theorem step_drain {s : State} (hc : s.classifies = true) (hb : s.inData = 0x0A#8) (hbusy : s.windowBusy = true) :
    step s = .next (endCycle s (drain s)) :=
  step_of_exec hc (by rw [hb]; rfl) (exec_newline_of_busy hbusy)

theorem step_closeRow {s : State} (hc : s.classifies = true) (hb : s.inData = 0x0A#8) (hbusy : s.windowBusy = false)
    (ha : s.addr ≠ 0#8) : step s = .next (endCycle s (closeRow s)) :=
  step_of_exec hc (by rw [hb]; rfl) (exec_newline_of_rowEnd hbusy ha)

/-! ### The row's close -/

/-- What the row sums to once the window has drained: what has retired and what is in flight (R115). -/
def State.rowSum (s : State) : Word :=
  s.runningSum + s.p0.val + s.p1.val + s.p2.val

theorem retire_runningSum_eq (s : State) : (retire s).runningSum = s.runningSum + s.p0.val := by
  cases he : s.p0.en with
  | false => simp [he, Slot.val_of_not_en he]
  | true => simp [he, Slot.val_of_en he]

theorem drain_rowSum (s : State) : (drain s).rowSum = s.rowSum := by
  have hsum : (drain s).runningSum = s.runningSum + s.p0.val := retire_runningSum_eq s
  simp only [State.rowSum, hsum, drain_p0, drain_p1, drain_p2, Slot.val_empty, BitVec.add_zero]

/-- How many drains empty the window: the enabled slot nearest the leading end counts (R155). -/
def State.drainsLeft (s : State) : Nat :=
  if s.p2.en then 3 else if s.p1.en then 2 else if s.p0.en then 1 else 0

theorem State.drainsLeft_le (s : State) : s.drainsLeft ≤ 3 := by
  unfold State.drainsLeft
  split_ifs <;> omega

theorem drain_drainsLeft {s : State} (h : s.windowBusy = true) : (drain s).drainsLeft + 1 = s.drainsLeft := by
  cases h2 : s.p2.en with
  | true => simp [State.drainsLeft, h2]
  | false =>
    cases h1 : s.p1.en with
    | true => simp [State.drainsLeft, h1, h2]
    | false =>
      have h0 : s.p0.en = true := by simpa [h1] using State.windowBusy_iff.mp h
      simp [State.drainsLeft, h0, h1, h2]

theorem Slot.eq_empty_of_canonical {p : Slot} (h : p.canonical = true) (he : p.en = false) : p = Slot.empty := by
  simpa [Slot.canonical, he] using h

/-- In a legal state the newline's drain test says that the whole window is empty (R116). -/
theorem State.Legal.windowEmpty {s : State} (h : s.Legal) (hbusy : s.windowBusy = false) : s.windowEmpty := by
  obtain ⟨h0, h1⟩ := State.windowBusy_eq_false_iff.mp hbusy
  have h2 : s.p2.en = false := Bool.eq_false_iff.mpr fun h2 => by simp [h.carryFollows h2] at h1
  exact ⟨Slot.eq_empty_of_canonical h.trailing h0, Slot.eq_empty_of_canonical h.current h1,
    Slot.eq_empty_of_canonical h.leading h2⟩

theorem State.rst_of_resetLowFor {s : State} {n : Nat} (h : s.resetLowFor (n + 1)) : s.rst = false := by
  have h0 := h 0 n.succ_pos
  rwa [List.getD_eq_getElem?_getD, ← List.head?_eq_getElem?, ← List.headD_eq_head?_getD] at h0

theorem resetLowFor_endCycle {s : State} (u : State) {n : Nat} (h : s.resetLowFor (n + 1)) :
    (endCycle s u).resetLowFor n := fun j hj => by
  simpa [List.getD_eq_getElem?_getD] using h (j + 1) (Nat.succ_lt_succ hj)

/-- A legal state past the bubble and past column 0, with a newline on offer. -/
structure State.RowEndOffered (s : State) (q : List Beat) : Prop where
  legal : s.Legal
  fsm : s.fsm = .input
  rdWait : s.rdWait = false
  offered : s.producer = .offer 0x0A#8 :: q
  pastStart : s.addr ≠ 0#8

theorem State.RowEndOffered.classifies {s : State} {q : List Beat} (h : s.RowEndOffered q) (hr : s.rst = false) :
    s.classifies = true :=
  State.classifies_iff.mpr ⟨hr, h.fsm, h.rdWait, State.inValid_of_offer h.offered⟩

theorem State.RowEndOffered.inData {s : State} {q : List Beat} (h : s.RowEndOffered q) : s.inData = 0x0A#8 :=
  State.inData_of_offer h.offered

/-- A drain leaves the newline on offer. -/
theorem State.RowEndOffered.drain {s : State} {q : List Beat} (h : s.RowEndOffered q) (hbusy : s.windowBusy = true) :
    (endCycle s (drain s)).RowEndOffered q where
  legal := (h.legal.drain h.fsm h.rdWait).endCycle s
  fsm := h.fsm
  rdWait := h.rdWait
  offered := by
    rw [endCycle_producer, State.xfer_of_drain h.inData hbusy, h.offered, producerNext_offer_held]
  pastStart := h.pastStart

/-- A row closed with the sum `sum`, and what its close leaves (R160). -/
structure State.RowClosed (t : State) (sum count : Word) (q : List Beat) : Prop where
  sum : t.resultPartB = sum
  cleared : t.runningSum = 0#64
  addr : t.addr = 0#8
  window : t.windowEmpty
  fsm : t.fsm = .input
  rdWait : t.rdWait = false
  rdData : t.rdData = t.mem.read 0#8
  count : t.resultPartA = count
  producer : t.producer = q

/-- On an empty window the newline is accepted and closes the row. -/
theorem State.RowEndOffered.close {s : State} {q : List Beat} (h : s.RowEndOffered q) (hbusy : s.windowBusy = false) :
    (endCycle s (closeRow s)).RowClosed s.rowSum s.resultPartA q := by
  have hempty : s.windowEmpty := h.legal.windowEmpty hbusy
  have hready : s.inReady = true := by
    refine State.readyFor_iff.mpr ⟨h.fsm, h.rdWait, fun ⟨_, hslot⟩ => ?_⟩
    rw [State.windowBusy_iff.mpr hslot] at hbusy
    exact absurd hbusy (by simp)
  have hsum : s.rowSum = s.runningSum := by
    obtain ⟨h0, h1, h2⟩ := hempty
    simp [State.rowSum, h0, h1, h2]
  refine ⟨hsum.symm, rfl, rfl, hempty, h.fsm, h.rdWait, rfl, rfl, ?_⟩
  rw [endCycle_producer, State.xfer_of_offer h.offered, hready, h.offered, producerNext_offer_taken]

/-- The newline drains the window and then closes the row with the whole row's sum, by induction on the drains left. -/
theorem run_rowEnd {s : State} {q : List Beat} (h : s.RowEndOffered q) (hlow : s.resetLowFor (s.drainsLeft + 1)) :
    ∃ t, run (s.drainsLeft + 1) s = .next t ∧ t.RowClosed s.rowSum s.resultPartA q := by
  induction hd : s.drainsLeft generalizing s with
  | zero =>
    have hc := h.classifies (State.rst_of_resetLowFor hlow)
    have hbusy : s.windowBusy = false := Bool.eq_false_iff.mpr fun hbusy =>
      Nat.succ_ne_zero _ ((drain_drainsLeft hbusy).trans hd)
    exact ⟨_, run_succ_of_step (step_closeRow hc h.inData hbusy h.pastStart), h.close hbusy⟩
  | succ n ih =>
    have hc := h.classifies (State.rst_of_resetLowFor hlow)
    have hbusy : s.windowBusy = true := by
      by_contra hbusy
      obtain ⟨h0, h1, h2⟩ := h.legal.windowEmpty (Bool.eq_false_iff.mpr hbusy)
      simp [State.drainsLeft, h0, h1, h2] at hd
    have hleft : (endCycle s (drain s)).drainsLeft = n := Nat.succ.inj ((drain_drainsLeft hbusy).trans hd)
    have hlow' : (endCycle s (drain s)).resetLowFor ((endCycle s (drain s)).drainsLeft + 1) :=
      hleft ▸ resetLowFor_endCycle _ (hd ▸ hlow)
    have hsum : (endCycle s (drain s)).rowSum = s.rowSum := drain_rowSum s
    rw [run_succ_of_step (step_drain hc h.inData hbusy), ← hsum]
    exact ih (h.drain hbusy) hlow' hleft

/-- Settles O39: at most three drains, and the cycle that accepts the newline. -/
theorem rowClosesWithItsWholeSum : Obligations.RowClosesWithItsWholeSum := by
  intro s q hlegal hf hw hlow hq ha
  have hd := s.drainsLeft_le
  obtain ⟨t, hrun, ⟨hsum, hcleared, haddr, hempty, hf', hw', hread, hcount, hq'⟩⟩ :=
    run_rowEnd ⟨hlegal, hf, hw, hq, ha⟩ fun j hj => hlow j (by omega)
  exact ⟨s.drainsLeft, t, hd, hrun, hsum, hcleared, haddr, hempty, hf', hw', hread, hcount, hq'⟩

/-! ### Sums over the array -/

/-- Every address once, in the order in which `State.mass` sums over them. -/
def Addr.all : List Addr :=
  (List.range Config.memDepth).map (BitVec.ofNat 8)

/-- The sum of `f` over the whole array, modulo `2^W`. -/
def cellSum (f : Addr → Word) : Word :=
  (Addr.all.map f).sum

theorem Addr.mem_all (a : Addr) : a ∈ Addr.all :=
  List.mem_map.mpr ⟨a.toNat, List.mem_range.mpr (Addr.toNat_lt_depth a), by simp⟩

theorem Addr.nodup_all : Addr.all.Nodup := by
  refine List.nodup_range.map_on fun m hm n hn h => ?_
  rw [List.mem_range] at hm hn
  have htoNat := congrArg BitVec.toNat h
  rwa [BitVec.toNat_ofNat, BitVec.toNat_ofNat, Nat.mod_eq_of_lt hm, Nat.mod_eq_of_lt hn] at htoNat

/-- Changing one cell changes the sum by the difference. -/
theorem cellSum_replace (f : Addr → Word) (a : Addr) (v : Word) :
    cellSum (fun b => if b = a then v else f b) = cellSum f - f a + v := by
  have hone : Addr.all.count a = 1 := List.count_eq_one_of_mem Addr.nodup_all (Addr.mem_all a)
  have hsum := List.sum_map_ite_eq Addr.all (fun _ => v) f a
  rw [hone, one_nsmul] at hsum
  rw [cellSum, cellSum, hsum]
  abel

/-- The sum of the whole array. -/
def Memory.total (m : Memory) : Word :=
  cellSum m.read

theorem Memory.total_write {m : Memory} (hm : m.wf = true) (a : Addr) (v : Word) :
    (m.write a v).total = m.total - m.read a + v := by
  have hread : (m.write a v).read = fun b => if b = a then v else m.read b := funext (Memory.read_write hm a v)
  rw [Memory.total, hread, cellSum_replace, Memory.total]

/-! ### What the window shadows -/

/-- What `f` has at an enabled slot's address. -/
def Slot.under (p : Slot) (f : Addr → Word) : Word :=
  if p.en then f p.addr else 0#64

/-- `f` with an enabled slot's own cell taken as 0. -/
def Slot.hide (p : Slot) (f : Addr → Word) (b : Addr) : Word :=
  if p.en && (p.addr == b) then 0#64 else f b

@[simp] theorem Slot.under_empty (f : Addr → Word) : Slot.empty.under f = 0#64 := rfl
@[simp] theorem Slot.under_live (a : Addr) (v : Word) (f : Addr → Word) : (Slot.live a v).under f = f a := rfl

theorem cellSum_hide (p : Slot) (f : Addr → Word) : cellSum (p.hide f) = cellSum f - p.under f := by
  cases he : p.en with
  | false =>
    have hhide : p.hide f = f := funext fun b => by simp [Slot.hide, he]
    simp [hhide, Slot.under, he]
  | true =>
    have hhide : p.hide f = fun b => if b = p.addr then 0#64 else f b := funext fun b => by
      simp [Slot.hide, he, eq_comm (a := p.addr)]
    simp [hhide, cellSum_replace, Slot.under, he]

/-- Two enabled slots hold different columns. -/
def Slot.Apart (p q : Slot) : Prop :=
  p.en = true → q.en = true → p.addr ≠ q.addr

theorem Slot.under_congr {p : Slot} {f g : Addr → Word} (h : p.en = true → f p.addr = g p.addr) :
    p.under f = p.under g := by
  cases he : p.en with
  | false => simp [Slot.under, he]
  | true => simp [Slot.under, he, h he]

theorem Slot.Apart.under_hide {p q : Slot} (h : p.Apart q) (f : Addr → Word) : q.under (p.hide f) = q.under f := by
  refine Slot.under_congr fun hq => ?_
  cases hp : p.en with
  | false => simp [Slot.hide, hp]
  | true => simp [Slot.hide, hp, h hp hq]

/-- The mass of R114 as the slots and the array's total, less the cells that the trailing and the current slot
shadow. -/
theorem State.mass_eq {s : State} (h : s.p0.Apart s.p1) :
    s.mass = s.p0.val + s.p1.val + s.p2.val
      + (s.mem.total - s.p0.under s.mem.read - s.p1.under s.mem.read) := by
  have hexposed : (fun b => if s.shadowed b then 0#64 else s.mem.read b) = s.p1.hide (s.p0.hide s.mem.read) :=
    funext fun b => by
      cases h1 : s.p1.en && (s.p1.addr == b) <;> simp [State.shadowed, Slot.hide, h1]
  have hmass : s.mass = s.p0.val + s.p1.val + s.p2.val
      + cellSum (fun b => if s.shadowed b then 0#64 else s.mem.read b) := by
    simp [State.mass, cellSum, Addr.all, Function.comp_def]
  rw [hmass, hexposed, cellSum_hide, h.under_hide, cellSum_hide, Memory.total]

/-- The mass looks at the window and at the array alone. -/
theorem State.mass_congr {s t : State} (h0 : t.p0 = s.p0) (h1 : t.p1 = s.p1) (h2 : t.p2 = s.p2)
    (hm : t.mem = s.mem) : t.mass = s.mass := by
  unfold State.mass State.shadowed
  rw [h0, h1, h2, hm]

/-! ### What retiring does to the mass -/

/-- A retirement puts the trailing slot's value in place of the cell it shadowed. -/
theorem retire_total {s : State} (hm : s.mem.wf = true) :
    (retire s).mem.total = s.mem.total - s.p0.under s.mem.read + s.p0.val := by
  cases he : s.p0.en with
  | false => simp [he, Slot.under, Slot.val]
  | true => simp [he, Slot.under, Slot.val, Memory.total_write hm]

theorem Slot.Apart.under_retire {s : State} {p : Slot} (h : s.p0.Apart p) (hm : s.mem.wf = true) :
    p.under (retire s).mem.read = p.under s.mem.read :=
  Slot.under_congr fun hp => retire_read_other hm fun h0 => (h h0 hp).symm

/-- What any cycle that retires does to the mass: the old current and leading slots leave it, the new window enters it,
and the cells that the new trailing and current slots shadow are displaced but for the one shadowed already. -/
theorem mass_of_retired {s u : State} (hm : s.mem.wf = true) (hmem : u.mem = (retire s).mem)
    (h : s.p0.Apart s.p1) (hu : u.p0.Apart u.p1) (h0 : s.p0.Apart u.p0) (h1 : s.p0.Apart u.p1) :
    u.mass = s.mass + (u.p0.val + u.p1.val + u.p2.val) - (s.p1.val + s.p2.val)
      + s.p1.under s.mem.read - u.p0.under s.mem.read - u.p1.under s.mem.read := by
  rw [State.mass_eq hu, State.mass_eq h, hmem, h0.under_retire hm, h1.under_retire hm, retire_total hm]
  abel

/-- Settles O46: a drain puts the current and the leading slot in the trailing and the current one's place, so the one
cell newly shadowed is the leading slot's. -/
theorem drainChangesMassAsTabled : Obligations.DrainChangesMassAsTabled := by
  intro s t hlegal hc hb hbusy h01 h02 h12 hs
  obtain rfl := Host.Outcome.next.inj ((step_drain hc hb hbusy).symm.trans hs)
  have hunder : (if s.p2.en then s.mem.read s.p2.addr else 0#64) = s.p2.under s.mem.read := rfl
  rw [mass_of_retired (u := endCycle s (drain s)) hlegal.memory rfl h01 h12 h01 h02, hunder]
  simp only [endCycle_p0, endCycle_p1, endCycle_p2, drain_p0, drain_p1, drain_p2, Slot.val_empty]
  rw [BitVec.add_zero]
  abel

/-- Settles O47: a cycle that does not move the window holds the slots and the array, and the mass is made of those. -/
theorem otherCyclesKeepMass : Obligations.OtherCyclesKeepMass := by
  intro s t hr hf hs hother
  have hn : ¬ s.movesWindow := by
    rintro ⟨hc, hb⟩
    obtain ⟨hpass, hstart, hsplit, hnewline⟩ := hother hc
    obtain hb | hb | hb | ⟨hb, hslot⟩ := hb
    · exact hpass hb
    · exact hstart hb
    · exact hsplit hb
    · have hidle := hnewline hb
      rw [State.windowBusy_iff.mpr hslot] at hidle
      exact Bool.noConfusion hidle
  obtain ⟨h0, h1, h2, hmem, -⟩ := step_holdsWindow hs hr hn
  exact State.mass_congr h0 h1 h2 (hmem hf)

/-! ### What a grid byte does to the mass -/

/-- The trailing slot of an aligned window is apart from the two columns after its own. -/
theorem State.Aligned.trailing_apart {s : State} (h : s.Aligned) {p : Slot}
    (hp : p.en = true → p.addr ≠ s.addr - 2#8) : s.p0.Apart p := fun h0 h1 => by
  obtain ⟨haddr, -⟩ := h.trailing h0
  rw [haddr]
  exact (hp h1).symm

/-- An advance from an aligned window displaces the cell at `c` and, if it enables a trailing slot where no current one
stood, the cell at `c - 1`. -/
theorem mass_of_advance {s : State} {trail lead : Slot} (v : Word) (h : s.Aligned) (hm : s.mem.wf = true)
    (ht : trail.en = true → trail.addr = s.addr - 1#8) :
    (endCycle s (nextColumn (advance trail v lead s))).mass = s.mass + (trail.val + v + lead.val)
      - (s.p1.val + s.p2.val) + s.p1.under s.mem.read - trail.under s.mem.read - s.mem.read s.addr := by
  have hback : s.addr - 1#8 ≠ s.addr - 2#8 := by bv_omega
  have hwindow : s.p0.Apart s.p1 := h.trailing_apart fun he => h.current he ▸ hback
  have htrail : s.p0.Apart trail := h.trailing_apart fun he => ht he ▸ hback
  have hcurrent : s.p0.Apart (Slot.live s.addr v) := h.trailing_apart fun _ => by rw [Slot.live_addr]; bv_omega
  have hnew : trail.Apart (Slot.live s.addr v) := fun he _ => by rw [ht he, Slot.live_addr]; bv_omega
  exact mass_of_retired (u := endCycle s (nextColumn (advance trail v lead s))) hm rfl hwindow hnew htrail hcurrent

theorem step_pass_mass {s t : State} (ha : s.Aligned) (hfresh : s.Fresh) (hm : s.mem.wf = true)
    (hc : s.classifies = true) (hb : s.inData = 0x2E#8) (hs : step s = .next t) : t.mass = s.mass := by
  obtain rfl := Host.Outcome.next.inj ((step_of_exec hc (by rw [hb]; rfl) (exec_pass s)).symm.trans hs)
  rw [mass_of_advance _ ha hm ha.current, hfresh, Slot.val_empty, BitVec.add_zero]
  abel

theorem step_start_mass {s t : State} (ha : s.Aligned) (hfresh : s.Fresh) (hm : s.mem.wf = true)
    (hc : s.classifies = true) (hb : s.inData = 0x53#8) (hs : step s = .next t) :
    t.mass = s.mass + 1#64 - s.rdData - s.p2.val := by
  obtain rfl := Host.Outcome.next.inj ((step_of_exec hc (by rw [hb]; rfl) (exec_start s)).symm.trans hs)
  rw [mass_of_advance _ ha hm ha.current, hfresh, Slot.val_empty, BitVec.add_zero]
  abel

/-- SPLIT in one formula: its trailing share displaces the cell at `c - 1`, unless the current slot shadowed it. -/
theorem step_split_mass {s t : State} (ha : s.Aligned) (hfresh : s.Fresh) (hm : s.mem.wf = true)
    (hc : s.classifies = true) (hb : s.inData = 0x5E#8) (hs : step s = .next t) :
    t.mass = s.mass + s.rdData + s.p1.under s.mem.read - s.mem.read (s.addr - 1#8) := by
  obtain rfl := Host.Outcome.next.inj ((step_of_exec hc (by rw [hb]; rfl) (exec_split s)).symm.trans hs)
  have hmass := mass_of_advance (trail := Slot.live (s.addr - 1#8) (s.p1.val + s.rdData))
    (lead := Slot.live (s.addr + 1#8) s.rdData) s.p2.val ha hm fun _ => rfl
  refine (State.mass_congr rfl rfl rfl rfl).trans (hmass.trans ?_)
  rw [Slot.val_live, Slot.val_live, Slot.under_live, hfresh]
  abel

/-- Settles O45: one lemma for each grid byte, and an enabled current slot shadows the cell at `c - 1`. -/
theorem gridBytesChangeMassAsTabled : Obligations.GridBytesChangeMassAsTabled := by
  intro s t h hc hs
  have hm := h.legal.memory
  have hready (hb : s.inData ≠ 0x0A#8) := h.aligned_and_fresh_of_classifies hc hb
  refine ⟨fun hb => ?_, fun hb => ?_, fun hb h1 => ?_, fun hb h1 => ?_⟩ <;>
    obtain ⟨ha, hfresh⟩ := hready (by simp [hb])
  · exact step_pass_mass ha hfresh hm hc hb hs
  · exact step_start_mass ha hfresh hm hc hb hs
  · have hunder : s.p1.under s.mem.read = s.mem.read (s.addr - 1#8) := by simp [Slot.under, h1, ha.current h1]
    rw [step_split_mass ha hfresh hm hc hb hs, hunder]
    abel
  · have hunder : s.p1.under s.mem.read = 0#64 := by simp [Slot.under, h1]
    rw [step_split_mass ha hfresh hm hc hb hs, hunder, BitVec.add_zero]

end Sys2Proof.Machine

/-! SUPPORT. The statements about the state machine and the cycles that are no byte's. Each such cycle is one equation
`step s = .next (endCycle s u)`; that nothing is transferred in it (`State.xfer_eq_false_of_not_ready` and
`State.xfer_eq_false_of_not_valid`) settles the producer's part. -/

namespace Sys2Proof.Machine

/-! ### Completion -/

theorem run_total (n : Nat) (s : State) : ∃ t, run n s = .next t := by
  induction n generalizing s with
  | zero => exact ⟨s, run_zero s⟩
  | succ n ih =>
    obtain ⟨u, hu⟩ := step_total s
    rw [run_succ_of_step hu]
    exact ih u

/-- Settles O6: no arm of `exec` faults or refuses, so no cycle does, and a run is cycles. -/
theorem everyCycleCompletes : Obligations.EveryCycleCompletes :=
  ⟨step_total, exec_total, run_total⟩

/-! ### Cycles without a transfer -/

theorem State.inReady_eq_false_of_fsm {s : State} (hf : s.fsm ≠ .input) : s.inReady = false :=
  Bool.eq_false_iff.mpr fun hready => by
    obtain ⟨hinput, -, -⟩ := State.readyFor_iff.mp hready
    exact hf hinput

theorem State.inReady_eq_false_of_rdWait {s : State} (hw : s.rdWait = true) : s.inReady = false :=
  Bool.eq_false_iff.mpr fun hready => by
    obtain ⟨-, hnot, -⟩ := State.readyFor_iff.mp hready
    simp [hw] at hnot

theorem State.xfer_eq_false_of_not_ready {s : State} (h : s.inReady = false) : s.xfer = false := by
  simp [State.xfer, h]

theorem State.xfer_eq_false_of_not_valid {s : State} (h : s.inValid = false) : s.xfer = false := by
  simp [State.xfer, h]

theorem endCycle_of_no_transfer {s : State} (u : State) (h : s.xfer = false) :
    endCycle s u = { u with
      rdData := s.mem.read u.addr
      resetLine := s.resetLine.tail
      producer := producerNext false s.producer } := by
  rw [endCycle, h]

theorem step_of_action {s u : State} (h : action s = .next u) : step s = .next (endCycle s u) :=
  step_next_iff.mpr ⟨u, h, rfl⟩

/-! ### The cycles that are no byte's -/

/-- Settles O18: R130's edge and the end of the cycle, field by field. -/
theorem resetEdgeOverridesEverything : Obligations.ResetEdgeOverridesEverything :=
  fun _ hr => step_of_rst hr

/-- Settles O20: the fill cycle on the last cell and before it; `RESET` is never ready. -/
theorem fillCycleResult : Obligations.FillCycleResult := by
  intro s hr hf
  have hready : s.inReady = false := State.inReady_eq_false_of_fsm (by simp [hf])
  have hxfer : s.xfer = false := State.xfer_eq_false_of_not_ready hready
  have hstep : step s = .next (endCycle s (fillCycle s)) := step_of_action (action_of_reset hr hf)
  refine ⟨hready, fun hlast => ?_, fun hmore => ?_⟩
  · rw [hstep, endCycle_of_no_transfer _ hxfer, fillCycle_last (hlast.trans lastCell_eq.symm), hlast]
  · rw [hstep, endCycle_of_no_transfer _ hxfer, fillCycle_more (lastCell_eq ▸ hmore)]

/-- Settles O22: with no byte presented nothing is transferred, and the action changes nothing. -/
theorem idleCycleHolds : Obligations.IdleCycleHolds := by
  intro s hr hf hw hv
  have hc : s.classifies = false := by simp [State.classifies, hv]
  rw [step_of_action (action_of_idle hc hr hf hw),
    endCycle_of_no_transfer _ (State.xfer_eq_false_of_not_valid hv)]

/-! ### The pending read -/

theorem fillCycle_rdWait (s : State) : (fillCycle s).rdWait = if s.addr = 255#8 then true else s.rdWait := by
  by_cases h : s.addr = lastCell
  · rw [fillCycle_last h, if_pos (h.trans lastCell_eq)]
  · rw [fillCycle_more h, if_neg (lastCell_eq ▸ h)]

/-- A read is pending after an action only when the last fill cycle set it, or when it was pending already outside
`INPUT`, where the bubble would have cleared it. -/
theorem CycleAction.pending_cases {s u : State} (h : CycleAction s u) (hu : u.rdWait = true) :
    (s.rst = false ∧ s.fsm = .reset ∧ s.addr = 255#8) ∨ (s.fsm ≠ .input ∧ s.rdWait = true) := by
  cases h with
  | reset _ | bubble _ _ _ _ => nomatch hu
  | fill hr _ hf =>
    by_cases hlast : s.addr = 255#8
    · exact .inl ⟨hr, hf, hlast⟩
    · rw [fillCycle_rdWait, if_neg hlast] at hu
      exact .inr ⟨by simp [hf], hu⟩
  | idle _ _ _ hw _ => nomatch hw.symm.trans hu
  | hold _ _ hf => exact .inr ⟨by obtain hf | hf := hf <;> simp [hf], hu⟩
  | pass hc _ | start hc _ | split hc _ | drain hc _ _ | endInput hc _ _ _ | closeRow hc _ _ _
  | malformed hc _ _ _ _ => exact nomatch (State.rdWait_of_classifies hc).symm.trans hu

theorem step_pending_cases {s t : State} (h : step s = .next t) (ht : t.rdWait = true) :
    (s.rst = false ∧ s.fsm = .reset ∧ s.addr = 255#8) ∨ (s.fsm ≠ .input ∧ s.rdWait = true) := by
  obtain ⟨u, hu, rfl⟩ := step_cases h
  exact hu.pending_cases ht

/-- Settles O21: the bubble is not ready, so it transfers nothing; the rest is `step_pending_cases`. -/
theorem bubbleIsTheOnlyReadWait : Obligations.BubbleIsTheOnlyReadWait := by
  refine ⟨fun s hr hf hw => ?_, fun s t h hw ht => ?_, fun s t h hr hf => ?_⟩
  · have hready : s.inReady = false := State.inReady_eq_false_of_rdWait hw
    refine ⟨hready, ?_⟩
    rw [step_of_action (action_of_rdWait hr hf hw),
      endCycle_of_no_transfer _ (State.xfer_eq_false_of_not_ready hready)]
    rfl
  · obtain hlast | ⟨-, hpending⟩ := step_pending_cases h ht
    · exact hlast
    · nomatch hw.symm.trans hpending
  · refine Bool.eq_false_iff.mpr fun ht => ?_
    obtain ⟨-, hreset, -⟩ | ⟨hne, -⟩ := step_pending_cases h ht
    · nomatch hf.symm.trans hreset
    · exact hne hf

/-! ### The terminal states -/

/-- `s` after `n` cycles that hold every register but `rd_data` and transfer nothing. -/
def State.heldFor (s : State) (n : Nat) : State :=
  { s with
    rdData := if n = 0 then s.rdData else s.mem.read s.addr
    resetLine := s.resetLine.drop n
    producer := (producerNext false)^[n] s.producer }

theorem State.heldFor_zero (s : State) : s.heldFor 0 = s := rfl

theorem State.heldFor_one_heldFor (s : State) (n : Nat) : (s.heldFor 1).heldFor n = s.heldFor (n + 1) := by
  simp [State.heldFor]

theorem State.inReady_of_terminal {s : State} (h : s.terminal) : s.inReady = false :=
  State.inReady_eq_false_of_fsm (by obtain hf | hf := h <;> simp [hf])

theorem step_of_terminal {s : State} (h : s.terminal) (hr : s.rst = false) : step s = .next (s.heldFor 1) := by
  have hxfer : s.xfer = false := State.xfer_eq_false_of_not_ready (State.inReady_of_terminal h)
  rw [step_of_action (action_of_terminal hr h), endCycle_of_no_transfer _ hxfer]
  simp [State.heldFor]

theorem State.resetLowFor_heldFor_one {s : State} {n : Nat} (h : s.resetLowFor (n + 1)) :
    (s.heldFor 1).resetLowFor n := fun j hj => by
  simpa [State.heldFor, List.getD_eq_getElem?_getD] using h (j + 1) (Nat.succ_lt_succ hj)

/-- From a terminal state a run without `rst` holds, by induction on its length. -/
theorem run_of_terminal {s : State} {n : Nat} (h : s.terminal) (hlow : s.resetLowFor n) :
    run n s = .next (s.heldFor n) := by
  induction n generalizing s with
  | zero => rw [run_zero, State.heldFor_zero]
  | succ n ih =>
    have hheld : (s.heldFor 1).terminal := h
    rw [run_succ_of_step (step_of_terminal h (State.rst_of_resetLowFor hlow)),
      ih hheld (State.resetLowFor_heldFor_one hlow), State.heldFor_one_heldFor]

/-- Settles O23: the run ends in `heldFor`, where `fsm` and the results are the old ones and an offer is held. -/
theorem terminalStatesHoldUntilReset : Obligations.TerminalStatesHoldUntilReset := by
  intro n s h hlow
  have hheld : (s.heldFor n).terminal := h
  refine ⟨s.heldFor n, run_of_terminal h hlow, rfl, rfl, rfl, rfl, rfl, State.inReady_of_terminal hheld,
    fun b q hq => ?_⟩
  calc (producerNext false)^[n] s.producer = (producerNext false)^[n] (.offer b :: q) := by rw [hq]
    _ = .offer b :: q := Function.iterate_fixed (producerNext_offer_held b q) n

/-! ### The transitions of the state machine -/

theorem fillCycle_fsm {s : State} (hf : s.fsm = .reset) :
    (fillCycle s).fsm = if s.addr = 255#8 then .input else .reset := by
  by_cases h : s.addr = lastCell
  · rw [fillCycle_last h, if_pos (h.trans lastCell_eq)]
  · rw [fillCycle_more h, if_neg (lastCell_eq ▸ h), hf]

/-- Settles O27, along the cycle's actions: the reset edge, the last fill cycle, the end of the input and a malformed
byte are the ones that move `fsm`. -/
theorem fsmTransitionsAreExact : Obligations.FsmTransitionsAreExact := by
  intro s t h
  obtain ⟨u, hu, rfl⟩ := step_cases h
  cases hu with
  | reset hr => simp [hr]
  | fill hr _ hf => simp [hr, hf, fillCycle_fsm hf]
  | bubble hr _ hf hw => simp [hr, hf, hw]
  | idle hr _ hf _ hv => simp [hr, hf, hv]
  | hold hr _ hf => obtain hf | hf := hf <;> simp [hr, hf]
  | pass hc hb | start hc hb | split hc hb =>
    simp [State.rst_of_classifies hc, State.fsm_of_classifies hc, hb]
  | drain hc hb hbusy =>
    obtain hslot | hslot := State.windowBusy_iff.mp hbusy <;>
      simp [State.rst_of_classifies hc, State.fsm_of_classifies hc, hb, hslot]
  | endInput hc hb hbusy ha =>
    simp [State.classifies_iff.mp hc, hb, State.windowBusy_eq_false_iff.mp hbusy, ha]
  | closeRow hc hb _ ha => simp [State.rst_of_classifies hc, State.fsm_of_classifies hc, hb, ha]
  | malformed hc hpass hstart hsplit hnewline =>
    simp [State.classifies_iff.mp hc, hpass, hstart, hsplit, hnewline]

end Sys2Proof.Machine

/-! SUPPORT. The statements about what each byte operation does: the whole next state of each, two splits in adjacent
columns, and the drain that a newline waits for. The drain is one induction on its cycles (`run_drains`), along which
the row's sum and the cells the window will leave behind stay the same. -/

namespace Sys2Proof.Machine

/-! ### The grid bytes -/

/-- Settles O7: PASS is its advance and the next column, whose fields are R150's. -/
theorem passResult : Obligations.PassResult :=
  ⟨encode_eq .pass, exec_pass⟩

/-- Settles O8: START is its advance and the next column, whose fields are R151's. -/
theorem startResult : Obligations.StartResult :=
  ⟨encode_eq .start, exec_start⟩

theorem countSplit_eq (s : State) :
    countSplit s = { s with resultPartA := if s.rdData = 0#64 then s.resultPartA else s.resultPartA + 1#64 } := by
  rw [countSplit, State.readValue_eq, ite_not]

/-- Settles O9: SPLIT counts, advances and moves to the next column. -/
theorem splitResult : Obligations.SplitResult := by
  refine ⟨encode_eq .split, fun s => ?_⟩
  rw [exec_split, countSplit_eq]
  rfl

/-- Settles O10: column 0's left neighbour is 255 modulo `N`, and an empty current slot adds nothing to the share. -/
theorem splitAtColumnZeroSharesWithLastCell : Obligations.SplitAtColumnZeroSharesWithLastCell := by
  intro s ha hp
  refine ⟨_, exec_split s, ?_, ha, ?_⟩
  · simp [ha, hp, Slot.live]
  · simp [ha, Slot.live]

/-! ### The newline on an empty window -/

/-- Settles O12: with neither slot enabled the window is not busy, and past column 0 the row closes. -/
theorem newlineRowEndResult : Obligations.NewlineRowEndResult :=
  ⟨encode_eq .newline, fun _ h0 h1 ha => exec_newline_of_rowEnd (State.windowBusy_eq_false_iff.mpr ⟨h0, h1⟩) ha⟩

theorem exec_newline_of_endInput {s : State} (h : s.windowBusy = false) (ha : s.addr = 0#8) :
    exec .newline s = .next (endInput s) := by
  simp [exec, execNewline, h, ha]

/-- At column 0 the end of the input leaves `addr` where it is. -/
theorem endInput_of_addr_eq_zero {s : State} (ha : s.addr = 0#8) : endInput s = { s with fsm := .done } := by
  rw [endInput, ← ha]

/-- Settles O13: the input ends, and `addr` was 0 already. -/
theorem newlineEndOfInputResult : Obligations.NewlineEndOfInputResult := by
  intro s h0 h1 ha
  have hbusy : s.windowBusy = false := State.windowBusy_eq_false_iff.mpr ⟨h0, h1⟩
  exact ⟨_, exec_newline_of_endInput hbusy ha, endInput_of_addr_eq_zero ha, rfl⟩

/-! ### The malformed byte -/

/-- Settles O14: a byte outside R72's table decodes to `malformed`, and only a newline can make `in_ready` wait for the
window. -/
theorem malformedResult : Obligations.MalformedResult := by
  intro b s hpass hstart hsplit hnewline
  have hwf : (Instr.malformed b).wellFormed = true :=
    wellFormed_malformed_iff.mpr ⟨hpass, hstart, hsplit, hnewline⟩
  exact ⟨decodeByte_encodeByte hwf, encode_eq _, exec_malformed b s, rfl,
    fun hf hw => State.readyFor_iff.mpr ⟨hf, hw, fun ⟨hb, _⟩ => hnewline hb⟩⟩

/-! ### Two splits in adjacent columns -/

theorem State.classifies_of_offer {s : State} {b : Byte} {q : List Beat} (hr : s.rst = false) (hf : s.fsm = .input)
    (hw : s.rdWait = false) (hq : s.producer = .offer b :: q) : s.classifies = true :=
  State.classifies_iff.mpr ⟨hr, hf, hw, State.inValid_of_offer hq⟩

/-- `s` after a cycle that classifies a split. -/
def State.afterSplit (s : State) : State :=
  endCycle s (nextColumn (advance (Slot.live (s.addr - 1#8) (s.p1.val + s.rdData)) s.p2.val
    (Slot.live (s.addr + 1#8) s.rdData) (countSplit s)))

theorem step_split {s : State} (hc : s.classifies = true) (hb : s.inData = 0x5E#8) :
    step s = .next s.afterSplit :=
  step_of_exec hc (by rw [hb]; rfl) (exec_split s)

/-- A split is accepted whatever the window holds, so the producer goes on to its next beat. -/
theorem State.afterSplit_producer {s : State} {q : List Beat} (hf : s.fsm = .input) (hw : s.rdWait = false)
    (hq : s.producer = .offer 0x5E#8 :: q) : s.afterSplit.producer = q := by
  have hready : s.inReady = true := by
    refine State.readyFor_iff.mpr ⟨hf, hw, fun ⟨hb, _⟩ => ?_⟩
    rw [State.inData_of_offer hq] at hb
    exact absurd hb (by decide)
  rw [State.afterSplit, endCycle_producer, State.xfer_of_offer hq, hready, hq, producerNext_offer_taken]

theorem State.afterSplit_resultPartA (s : State) :
    s.afterSplit.resultPartA = s.resultPartA + (if s.rdData = 0#64 then 0#64 else 1#64) := by
  by_cases h : s.rdData = 0#64 <;> simp [State.afterSplit, h]

theorem State.afterSplit_mem_wf {s : State} (hm : s.mem.wf = true) : s.afterSplit.mem.wf = true :=
  retire_mem_wf hm

/-- Two offered splits run in two cycles. -/
theorem run_two_splits {s : State} {q : List Beat} (hf : s.fsm = .input) (hw : s.rdWait = false)
    (hlow : s.resetLowFor 2) (hq : s.producer = .offer 0x5E#8 :: .offer 0x5E#8 :: q) :
    run 2 s = .next s.afterSplit.afterSplit := by
  have hq' : s.afterSplit.producer = .offer 0x5E#8 :: q := State.afterSplit_producer hf hw hq
  have hr : s.rst = false := State.rst_of_resetLowFor hlow
  have hr' : s.afterSplit.rst = false := State.rst_of_resetLowFor (resetLowFor_endCycle _ hlow)
  rw [run_succ_of_step (step_split (State.classifies_of_offer hr hf hw hq) (State.inData_of_offer hq)),
    run_succ_of_step (step_split (State.classifies_of_offer hr' hf hw hq') (State.inData_of_offer hq')), run_zero]

/-- Settles O17: the second split's carry is the first one's rightward share, its read value is the cell at `c + 1` as
the first one's cycle found it, and it retires the first one's leftward share into column `c - 1`. -/
theorem adjacentSplitsKeepTheCarry : Obligations.AdjacentSplitsKeepTheCarry := by
  intro s q hm hf hw hlow hq
  have hback : s.addr + 1#8 - 1#8 = s.addr := BitVec.add_sub_cancel _ _
  have hnext : s.addr + 1#8 + 1#8 = s.addr + 2#8 := BitVec.add_assoc _ _ _
  have hcount := s.afterSplit.afterSplit_resultPartA
  rw [s.afterSplit_resultPartA] at hcount
  refine ⟨s.afterSplit.afterSplit, run_two_splits hf hw hlow hq, ?_, rfl, ?_,
    retire_read_trailing (State.afterSplit_mem_wf hm) rfl, hnext, hcount, ?_⟩
  · exact congrArg (Slot.live · _) hback
  · exact congrArg (Slot.live · _) hnext
  · exact State.afterSplit_producer hf hw (State.afterSplit_producer hf hw hq)

/-! ### The drain that a newline waits for -/

/-- A legal state past the bubble with a newline on offer, `rst` staying low while the window drains. -/
structure State.NewlineWaits (s : State) (q : List Beat) : Prop where
  legal : s.Legal
  fsm : s.fsm = .input
  rdWait : s.rdWait = false
  offered : s.producer = .offer 0x0A#8 :: q
  low : s.resetLowFor s.drainsLeft

theorem State.NewlineWaits.inData {s : State} {q : List Beat} (h : s.NewlineWaits q) : s.inData = 0x0A#8 :=
  State.inData_of_offer h.offered

/-- The newline is accepted in exactly the cycles whose window is not busy (R95). -/
theorem State.NewlineWaits.inReady {s : State} {q : List Beat} (h : s.NewlineWaits q) :
    s.inReady = !s.windowBusy := by
  simp [State.inReady, State.readyFor, h.fsm, h.rdWait, h.inData, byteNewline, State.windowBusy]

/-- A legal window is busy as long as there is a slot left to drain. -/
theorem State.Legal.windowBusy_iff_drainsLeft_pos {s : State} (h : s.Legal) :
    s.windowBusy = true ↔ 0 < s.drainsLeft := by
  refine ⟨fun hbusy => drain_drainsLeft hbusy ▸ Nat.succ_pos _, fun hpos => ?_⟩
  by_contra hbusy
  obtain ⟨h0, h1, h2⟩ := h.windowEmpty (Bool.eq_false_iff.mpr hbusy)
  simp [State.drainsLeft, h0, h1, h2] at hpos

/-- A drain leaves the newline waiting, with one slot position less to go. -/
theorem State.NewlineWaits.drain {s : State} {q : List Beat} (h : s.NewlineWaits q) (hbusy : s.windowBusy = true) :
    (endCycle s (drain s)).NewlineWaits q where
  legal := (h.legal.drain h.fsm h.rdWait).endCycle s
  fsm := h.fsm
  rdWait := h.rdWait
  offered := by
    rw [endCycle_producer, State.xfer_of_drain h.inData hbusy, h.offered, producerNext_offer_held]
  low := by
    have hlow := h.low
    rw [← drain_drainsLeft hbusy] at hlow
    exact resetLowFor_endCycle _ hlow

/-- What cell `a` holds once every enabled slot has been written back: the slots retire from the trailing end, so the
leading slot's value is the last one written. -/
def State.settledCell (s : State) (a : Addr) : Word :=
  if s.p2.en = true ∧ a = s.p2.addr then s.p2.value
  else if s.p1.en = true ∧ a = s.p1.addr then s.p1.value
  else if s.p0.en = true ∧ a = s.p0.addr then s.p0.value
  else s.mem.read a

theorem retire_read {s : State} (hm : s.mem.wf = true) (a : Addr) :
    (retire s).mem.read a = if s.p0.en = true ∧ a = s.p0.addr then s.p0.value else s.mem.read a := by
  split_ifs with h
  · obtain ⟨he, rfl⟩ := h
    exact retire_read_trailing hm he
  · exact retire_read_other hm fun he ha => h ⟨he, ha⟩

theorem drain_settledCell {s : State} (hm : s.mem.wf = true) (a : Addr) :
    (drain s).settledCell a = s.settledCell a := by
  have hmem : (drain s).mem.read a = (retire s).mem.read a := rfl
  simp only [State.settledCell, hmem, retire_read hm, drain_p0, drain_p1, drain_p2, Slot.empty_en, Bool.false_eq_true,
    false_and, if_false]

theorem State.settledCell_of_windowEmpty {s : State} (h : s.windowEmpty) (a : Addr) :
    s.settledCell a = s.mem.read a := by
  obtain ⟨h0, h1, h2⟩ := h
  simp [State.settledCell, h0, h1, h2]

theorem State.rowSum_of_windowEmpty {s : State} (h : s.windowEmpty) : s.rowSum = s.runningSum := by
  obtain ⟨h0, h1, h2⟩ := h
  simp [State.rowSum, h0, h1, h2]

/-- What drains keep from `s` to `u`: the registers they do not touch, the sum the row will have and what each cell
will hold. -/
structure State.DrainsTo (s u : State) : Prop where
  addr : u.addr = s.addr
  count : u.resultPartA = s.resultPartA
  lastRow : u.resultPartB = s.resultPartB
  sum : u.rowSum = s.rowSum
  cell : ∀ a, u.settledCell a = s.settledCell a

theorem State.DrainsTo.refl (s : State) : s.DrainsTo s :=
  ⟨rfl, rfl, rfl, rfl, fun _ => rfl⟩

theorem State.DrainsTo.of_drain {s u : State} (hm : s.mem.wf = true) (h : (endCycle s (drain s)).DrainsTo u) :
    s.DrainsTo u where
  addr := h.addr
  count := h.count
  lastRow := h.lastRow
  sum := h.sum.trans (drain_rowSum s)
  cell a := (h.cell a).trans (drain_settledCell hm a)

/-- As long as there are slots left, each cycle of a waiting newline is a drain; by induction on the cycles. -/
theorem run_drains {s : State} {q : List Beat} {j : Nat} (h : s.NewlineWaits q) (hj : j ≤ s.drainsLeft) :
    ∃ u, run j s = .next u ∧ u.NewlineWaits q ∧ u.drainsLeft + j = s.drainsLeft ∧ s.DrainsTo u := by
  induction j generalizing s with
  | zero => exact ⟨s, run_zero s, h, rfl, .refl s⟩
  | succ j ih =>
    have hbusy : s.windowBusy = true := h.legal.windowBusy_iff_drainsLeft_pos.mpr (by omega)
    have hleft : (endCycle s (drain s)).drainsLeft + 1 = s.drainsLeft := drain_drainsLeft hbusy
    have hr : s.rst = false := State.rst_of_resetLowFor (hleft ▸ h.low)
    have hstep : step s = .next (endCycle s (drain s)) :=
      step_drain (State.classifies_of_offer hr h.fsm h.rdWait h.offered) h.inData hbusy
    obtain ⟨u, hrun, hu, hcycles, hto⟩ := ih (h.drain hbusy) (by omega)
    exact ⟨u, (run_succ_of_step hstep).trans hrun, hu, by omega, hto.of_drain h.legal.memory⟩

/-- Settles O38: before the last drain the window is busy and the newline held back; after it the window is empty, so
the running sum and the array are the row's sum and the settled cells. -/
theorem newlineIsAcceptedAfterTheDrain : Obligations.NewlineIsAcceptedAfterTheDrain := by
  intro s q hlegal hf hw hlow hq
  have hmax := s.drainsLeft_le
  have h : s.NewlineWaits q := ⟨hlegal, hf, hw, hq, fun j hj => hlow j (by omega)⟩
  refine ⟨s.drainsLeft, rfl, fun j hj => ?_, ?_⟩
  · obtain ⟨u, hrun, hu, hcycles, -⟩ := run_drains h hj.le
    have hbusy : u.windowBusy = true := hu.legal.windowBusy_iff_drainsLeft_pos.mpr (by omega)
    exact ⟨u, hrun, by simp [hu.inReady, hbusy], hu.offered.trans hq.symm⟩
  · obtain ⟨t, hrun, ht, hcycles, hto⟩ := run_drains h le_rfl
    have hidle : t.windowBusy = false := Bool.eq_false_iff.mpr fun hbusy => by
      have hpos := ht.legal.windowBusy_iff_drainsLeft_pos.mp hbusy
      omega
    have hempty : t.windowEmpty := ht.legal.windowEmpty hidle
    exact ⟨t, hrun, by simp [ht.inReady, hidle], ht.offered.trans hq.symm, hempty, ht.fsm, ht.rdWait, hto.addr,
      hto.count, hto.lastRow, (State.rowSum_of_windowEmpty hempty).symm.trans hto.sum,
      fun a => (State.settledCell_of_windowEmpty hempty a).symm.trans (hto.cell a)⟩

end Sys2Proof.Machine

/-! SUPPORT. The statements about boot, reset and pauses. The boot is a run in which the core takes no byte
(`State.QuietRun`): legality carries what the fill has zeroed, so its last state is one and the same whatever the array
held (`State.booted`). A pause is absorbed in one cycle (`pausesAreAbsorbed`), and the run with pauses simulates the run
without them, one cycle of the latter at a time (`State.PastBubble.matchesCycle`). -/

namespace Sys2Proof.Machine

/-! ### A run without a transfer -/

/-- `j` cycles lead from `s` to the legal state `u`, and the core takes no byte in them: each cycle uses up one entry of
the reset line, and the producer moves on as it does without a transfer. -/
structure State.QuietRun (s : State) (j : Nat) (u : State) : Prop where
  reached : run j s = .next u
  legal : u.Legal
  resetLine : u.resetLine = s.resetLine.drop j
  producer : u.producer = (producerNext false)^[j] s.producer

theorem State.QuietRun.refl {s : State} (h : s.Legal) : s.QuietRun 0 s :=
  ⟨run_zero s, h, rfl, rfl⟩

theorem step_resetLine {s t : State} (h : step s = .next t) : t.resetLine = s.resetLine.tail := by
  obtain ⟨u, -, rfl⟩ := step_next_iff.mp h
  exact endCycle_resetLine u s

theorem run_one {s t : State} (h : step s = .next t) : run 1 s = .next t :=
  run_succ_of_step h

/-- One more cycle in which the core is not ready. -/
theorem State.QuietRun.step {s u v : State} {j : Nat} (h : s.QuietRun j u) (hready : u.inReady = false)
    (hs : step u = .next v) : s.QuietRun (j + 1) v where
  reached := (run_add h.reached).trans (run_one hs)
  legal := step_keeps_legal h.legal hs
  resetLine := by rw [step_resetLine hs, h.resetLine, List.tail_drop]
  producer := by
    rw [step_producer hs, State.xfer_eq_false_of_not_ready hready, h.producer, Function.iterate_succ_apply']

/-- The level of `rst` after `j` cycles is the reset line's entry `j`. -/
theorem State.QuietRun.rst_eq_false {s u : State} {j n : Nat} (h : s.QuietRun j u) (hlow : s.resetLowFor n)
    (hj : j < n) : u.rst = false := by
  have hlevel := hlow j hj
  simpa [State.rst, h.resetLine, List.headD_eq_head?_getD, List.getD_eq_getElem?_getD] using hlevel

/-- A run without a transfer leaves an offered byte with the producer (R91). -/
theorem State.QuietRun.keeps_offer {s u : State} {j : Nat} {b : Byte} {q : List Beat} (h : s.QuietRun j u)
    (hq : s.producer = .offer b :: q) : u.producer = .offer b :: q := by
  rw [h.producer, hq]
  exact Function.iterate_fixed (producerNext_offer_held b q) j

/-! ### Boot -/

/-- A legal state about to fill its first cell, `rst` staying low for the 256 fill cycles and the bubble (R200). -/
structure State.BootStart (s : State) : Prop where
  legal : s.Legal
  fsm : s.fsm = .reset
  addr : s.addr = 0#8
  low : s.resetLowFor 257

/-- One fill cycle takes no byte. -/
theorem State.QuietRun.fill {s u : State} {j : Nat} (h : s.QuietRun j u) (hr : u.rst = false) (hf : u.fsm = .reset) :
    s.QuietRun (j + 1) (endCycle u (fillCycle u)) :=
  h.step (State.inReady_eq_false_of_fsm (by simp [hf])) (step_of_action (action_of_reset hr hf))

/-- After `j` fill cycles the cell to fill is cell `j`, by induction on `j`. -/
theorem State.BootStart.run_fill {s : State} (h : s.BootStart) {j : Nat} (hj : j < 256) :
    ∃ u, s.QuietRun j u ∧ u.fsm = .reset ∧ u.addr.toNat = j := by
  induction j with
  | zero => exact ⟨s, .refl h.legal, h.fsm, by rw [h.addr]; rfl⟩
  | succ j ih =>
    obtain ⟨u, hrun, hf, ha⟩ := ih (by omega)
    have hmore : u.addr ≠ 255#8 := by bv_omega
    refine ⟨_, hrun.fill (hrun.rst_eq_false h.low (by omega)) hf, ?_, ?_⟩
    · rw [endCycle_fsm, fillCycle_fsm hf, if_neg hmore]
    · rw [endCycle_addr, fillCycle_addr, if_neg hmore]
      bv_omega

/-- The 256th fill cycle moves to `INPUT` with a read pending (R133). -/
theorem State.BootStart.run_to_bubble {s : State} (h : s.BootStart) :
    ∃ u, s.QuietRun 256 u ∧ u.fsm = .input ∧ u.rdWait = true := by
  obtain ⟨u, hrun, hf, ha⟩ := h.run_fill (j := 255) (by omega)
  have hlast : u.addr = 255#8 := BitVec.eq_of_toNat_eq ha
  refine ⟨_, hrun.fill (hrun.rst_eq_false h.low (by omega)) hf, ?_, ?_⟩
  · rw [endCycle_fsm, fillCycle_fsm hf, if_pos hlast]
  · rw [endCycle_rdWait, fillCycle_rdWait, if_pos hlast]

/-- The one state with R201's registers and an array of zeros, in the environment given. -/
def State.booted (r : List Bool) (q : List Beat) : State :=
  { State.reset with fsm := .input, resetLine := r, producer := q }

theorem State.booted_firstConsuming (r : List Bool) (q : List Beat) : (State.booted r q).FirstConsuming :=
  ⟨rfl, rfl, rfl, rfl, ⟨rfl, rfl, rfl⟩, ⟨rfl, rfl, rfl⟩, Memory.read_nil⟩

/-- Legality leaves a state with a pending read no register to differ in but `rd_data`, which the bubble reloads. -/
theorem endCycle_bubble_of_pending {s : State} (h : s.Legal) (hw : s.rdWait = true) :
    endCycle s (bubble s) = State.booted s.resetLine.tail (producerNext s.xfer s.producer) := by
  obtain ⟨hf, haddr, ⟨h0, h1, h2⟩, ⟨hsum, hcountA, hcountB⟩, hmem⟩ := h.pending hw
  simp [endCycle, bubble, State.booted, State.reset, hf, haddr, h0, h1, h2, hsum, hcountA, hcountB, hmem]

/-- The fill and the bubble lead to the same registers and cells from every start. -/
theorem State.BootStart.run_boot {s : State} (h : s.BootStart) :
    s.QuietRun 257 (State.booted (s.resetLine.drop 257) ((producerNext false)^[257] s.producer)) := by
  obtain ⟨u, hrun, hf, hw⟩ := h.run_to_bubble
  have hstep := step_of_action (action_of_rdWait (hrun.rst_eq_false h.low (by omega)) hf hw)
  rw [endCycle_bubble_of_pending hrun.legal hw] at hstep
  have hboot := hrun.step (State.inReady_eq_false_of_rdWait hw) hstep
  have hline : u.resetLine.tail = s.resetLine.drop 257 := hboot.resetLine
  have hproducer : producerNext u.xfer u.producer = (producerNext false)^[257] s.producer := hboot.producer
  rwa [hline, hproducer] at hboot

/-- Settles O48: the core is ready neither in `RESET` nor with a read pending, and the run ends in `State.booted`. -/
theorem bootReachesTheFirstConsumingState : Obligations.BootReachesTheFirstConsumingState := by
  intro s hlegal hf ha hlow
  have h : s.BootStart := ⟨hlegal, hf, ha, hlow⟩
  refine ⟨fun j hj => ?_, ?_⟩
  · obtain hlt | rfl := Nat.lt_or_eq_of_le hj
    · obtain ⟨u, hrun, hf', ha'⟩ := h.run_fill hlt
      exact ⟨u, hrun.reached, State.inReady_eq_false_of_fsm (by simp [hf']), fun _ => ⟨hf', ha'⟩,
        fun hlast => absurd hlast hlt.ne⟩
    · obtain ⟨u, hrun, hf', hw'⟩ := h.run_to_bubble
      exact ⟨u, hrun.reached, State.inReady_eq_false_of_rdWait hw', fun hlt => absurd hlt (lt_irrefl 256),
        fun _ => ⟨hf', hw'⟩⟩
  · have hrun := h.run_boot
    exact ⟨_, hrun.reached, State.booted_firstConsuming _ _, hrun.resetLine, fun _ _ => hrun.keeps_offer⟩

/-! ### Reset -/

/-- The reset edge starts a boot, from any state with a canonical array. -/
theorem bootStart_after_reset {s : State} (hm : s.mem.wf = true)
    (hlow : ∀ j : Nat, j < 257 → s.resetLine.getD (j + 1) false = false) :
    (endCycle s (resetEdge s)).BootStart where
  legal := powerOn_legal _ _ _ hm
  fsm := rfl
  addr := rfl
  low j hj := by simpa [List.getD_eq_getElem?_getD] using hlow j hj

/-- A reset and the boot after it forget all of the state but the environment. -/
theorem run_reset_and_boot {s : State} (hm : s.mem.wf = true) (hr : s.rst = true) (hv : s.inValid = false)
    (hlow : ∀ j : Nat, j < 257 → s.resetLine.getD (j + 1) false = false) :
    run 258 s = .next (State.booted (s.resetLine.drop 258) ((producerNext false)^[258] s.producer)) := by
  have hboot := (bootStart_after_reset hm hlow).run_boot.reached
  rw [endCycle_resetLine, endCycle_producer, State.xfer_eq_false_of_not_valid hv, List.drop_tail,
    ← Function.iterate_succ_apply] at hboot
  exact (run_succ_of_step (step_of_rst hr)).trans hboot

/-- Settles O49: the end of `run_reset_and_boot` names nothing of the state but its environment. -/
theorem resetForgetsTheInterruptedRun : Obligations.ResetForgetsTheInterruptedRun := by
  intro s s' hm hm' hline hproducer hr hv hlow
  have hr' : s'.rst = true := by simpa [State.rst, hline] using hr
  have hv' : s'.inValid = false := by simpa [State.inValid, hproducer] using hv
  have hrun' := run_reset_and_boot hm' hr' hv' (hline ▸ hlow)
  rw [← hline, ← hproducer] at hrun'
  exact ⟨_, run_reset_and_boot hm hr hv hlow, hrun', State.booted_firstConsuming _ _⟩

/-! ### One pause -/

/-- Settles O50: in a pause no newline waits, so the read is fresh and its reload gives the value already there. -/
theorem pausesAreAbsorbed : Obligations.PausesAreAbsorbed := by
  intro s d q h hf hw hr hq
  have hv : s.inValid = false := by simp [State.inValid, hq]
  have hn : ¬ s.newlineOffered := by simp [State.newlineOffered, hq]
  obtain ⟨-, hfresh⟩ := h.aligned_and_fresh hf hw hn
  have hread : s.rdData = s.mem.read s.addr := hfresh
  rw [idleCycleHolds s hr hf hw hv, ← hread, hq, producerNext_pause]

/-! ### The run without pauses -/

/-- `s` with the same bytes to come and no pause among them. -/
def State.unpaused (s : State) : State :=
  { s with producer := offers s.producer }

/-- No byte's meaning looks at the producer. -/
theorem exec_withProducer {i : Instr} {s u : State} (q : List Beat) (h : exec i s = .next u) :
    exec i { s with producer := q } = .next { u with producer := q } := by
  cases i with
  | pass | start | split | malformed _ =>
    obtain rfl := Host.Outcome.next.inj h
    rfl
  | newline =>
    obtain ⟨hbusy, rfl⟩ | ⟨hbusy, ha, rfl⟩ | ⟨hbusy, ha, rfl⟩ := exec_newline_cases h
    · exact exec_newline_of_busy (s := { s with producer := q }) hbusy
    · exact exec_newline_of_endInput (s := { s with producer := q }) hbusy ha
    · exact exec_newline_of_rowEnd (s := { s with producer := q }) hbusy ha

/-- Two producers that offer the same byte give actions that differ in the producer alone. -/
theorem action_withProducer_of_offer {s u : State} {b : Byte} {q q' : List Beat} (hq : s.producer = .offer b :: q)
    (h : action s = .next u) :
    action { s with producer := .offer b :: q' } = .next { u with producer := .offer b :: q' } := by
  have hclass : { s with producer := .offer b :: q' }.classifies = s.classifies := by
    simp [State.classifies, State.rst, State.inValid, hq]
  cases hc : s.classifies with
  | false => exact action_withProducer hc (hclass.trans hc) h
  | true =>
    rw [action_of_classifies hc, State.inData_of_offer hq] at h
    rw [action_of_classifies (hclass.trans hc), State.inData_of_offer rfl]
    exact exec_withProducer _ h

/-- With the same byte offered, a cycle differs in what comes after that byte alone. -/
theorem step_withProducer_of_offer {s t : State} {b : Byte} {q : List Beat} (q' : List Beat)
    (hq : s.producer = .offer b :: q) (hs : step s = .next t) :
    step { s with producer := .offer b :: q' } = .next { t with producer := producerNext s.xfer (.offer b :: q') } := by
  obtain ⟨u, hu, rfl⟩ := step_next_iff.mp hs
  have hxfer : { s with producer := .offer b :: q' }.xfer = s.xfer := by
    rw [State.xfer_of_offer hq, State.xfer_of_offer rfl, State.inReady, State.inReady, State.inData_of_offer hq]
    rfl
  rw [step_of_action (action_withProducer_of_offer hq hu), endCycle, hxfer]
  rfl

/-- An offered byte is no pause, so leaving the pauses out commutes with its transfer. -/
theorem offers_producerNext_offer (x : Bool) (b : Byte) (q : List Beat) :
    offers (producerNext x (.offer b :: q)) = producerNext x (.offer b :: offers q) := by
  cases x <;> rfl

/-- A cycle with a byte offered is a cycle of the run without pauses. -/
theorem step_unpaused_of_offer {s t : State} {b : Byte} {q : List Beat} (hq : s.producer = .offer b :: q)
    (hs : step s = .next t) : step s.unpaused = .next t.unpaused := by
  have hs' : s.unpaused = { s with producer := .offer b :: offers q } := by rw [State.unpaused, hq, offers]
  have ht : offers t.producer = producerNext s.xfer (.offer b :: offers q) := by
    rw [step_producer hs, hq, offers_producerNext_offer]
  rw [hs', step_withProducer_of_offer (offers q) hq hs, State.unpaused, ht]

/-- Once the producer has nothing left to do, there is no pause to leave out. -/
theorem step_unpaused_of_nil {s t : State} (hq : s.producer = []) (hs : step s = .next t) :
    step s.unpaused = .next t.unpaused := by
  have hunpaused {r : State} (hr : r.producer = []) : r.unpaused = r := by
    rw [State.unpaused, hr, offers, ← hr]
  have ht : t.producer = [] := by rw [step_producer hs, hq, producerNext_nil]
  rw [hunpaused hq, hunpaused ht, hs]

/-- Without a transfer a dutiful producer keeps its bytes. -/
theorem offers_producerNext_false {q : List Beat} (h : q.all Beat.dutiful = true) :
    offers (producerNext false q) = offers q := by
  match q, h with
  | [], _ => rfl
  | .pause _ :: _, _ => rfl
  | .offer _ :: _, _ => rfl
  | .pulse _ :: _, h => exact absurd h (by simp [Beat.dutiful])

/-- Without a transfer a dutiful producer that makes no pause does not move. -/
theorem producerNext_false_offers {q : List Beat} (h : q.all Beat.dutiful = true) :
    producerNext false (offers q) = offers q := by
  induction q with
  | nil => rfl
  | cons beat q ih =>
    cases beat with
    | pause _ => exact ih h
    | offer _ => rfl
    | pulse _ => exact absurd h (by simp [Beat.dutiful])

/-- In a terminal state every byte stays with the producer, pauses or not. -/
theorem step_unpaused_of_terminal {s : State} (h : s.terminal) (hr : s.rst = false) (hd : s.dutiful = true) :
    step s.unpaused = .next (s.heldFor 1).unpaused := by
  have hbytes : producerNext false (offers s.producer) = offers (producerNext false s.producer) :=
    (producerNext_false_offers hd).trans (offers_producerNext_false hd).symm
  have hstep : step s.unpaused = .next (s.unpaused.heldFor 1) := step_of_terminal (s := s.unpaused) h hr
  rw [hstep]
  exact congrArg (fun q => Host.Outcome.next { s.heldFor 1 with producer := q }) hbytes

/-! ### The simulation -/

/-- A streaming state past the bubble, with no reset to come. -/
structure State.PastBubble (s : State) : Prop where
  streaming : s.Streaming
  fsm : s.fsm ≠ .reset
  rdWait : s.rdWait = false
  resetLine : s.resetLine = []

theorem State.PastBubble.rst {s : State} (h : s.PastBubble) : s.rst = false := by
  simp [State.rst, h.resetLine]

/-- Without `rst`, no action leads back to `RESET`. -/
theorem CycleAction.fsm_ne_reset {s u : State} (h : CycleAction s u) (hr : s.rst = false) (hf : s.fsm ≠ .reset) :
    u.fsm ≠ .reset := by
  cases h with
  | reset hrst => nomatch hr.symm.trans hrst
  | fill _ _ hreset => exact absurd hreset hf
  | endInput _ _ _ _ | malformed _ _ _ _ _ => nofun
  | bubble _ _ _ _ | idle _ _ _ _ _ | hold _ _ _ | pass _ _ | start _ _ | split _ _ | drain _ _ _
  | closeRow _ _ _ _ => exact hf

theorem step_keeps_pastBubble {s t : State} (h : s.PastBubble) (hs : step s = .next t) : t.PastBubble where
  streaming := everyStepKeepsStreaming s t h.streaming hs
  fsm := by
    obtain ⟨u, hu, rfl⟩ := step_cases hs
    exact hu.fsm_ne_reset h.rst h.fsm
  rdWait := Bool.eq_false_iff.mpr fun hw => by
    obtain ⟨-, hreset, -⟩ | ⟨-, hpending⟩ := step_pending_cases hs hw
    · exact h.fsm hreset
    · nomatch h.rdWait.symm.trans hpending
  resetLine := by rw [step_resetLine hs, h.resetLine, List.tail_nil]

/-- A pause of a producer that keeps R91 uses itself up and does nothing else. -/
theorem State.PastBubble.step_of_pause {s : State} {d : Byte} {q : List Beat} (h : s.PastBubble)
    (hf : s.fsm = .input) (hq : s.producer = .pause d :: q) : step s = .next { s with producer := q } := by
  rw [pausesAreAbsorbed s d q h.streaming hf h.rdWait h.rst hq, h.resetLine, List.tail_nil, ← h.resetLine]

/-- From `s`, one or more cycles match one cycle of the run without pauses. -/
def State.MatchesCycle (s : State) : Prop :=
  ∃ (k : Nat) (t : State), 1 ≤ k ∧ run k s = .next t ∧ step s.unpaused = .next t.unpaused ∧ t.PastBubble

theorem State.PastBubble.matchesCycle_of_step {s t : State} (h : s.PastBubble) (hs : step s = .next t)
    (hs' : step s.unpaused = .next t.unpaused) : s.MatchesCycle :=
  ⟨1, t, le_rfl, run_one hs, hs', step_keeps_pastBubble h hs⟩

/-- In `INPUT` the pauses at the producer's head are absorbed one by one, by induction on its beats. -/
theorem State.PastBubble.matchesCycle_of_input {s : State} (h : s.PastBubble) (hf : s.fsm = .input) :
    s.MatchesCycle := by
  obtain ⟨v, hs⟩ := step_total s
  induction hq : s.producer generalizing s v with
  | nil => exact h.matchesCycle_of_step hs (step_unpaused_of_nil hq hs)
  | cons beat q ih =>
    cases beat with
    | offer b => exact h.matchesCycle_of_step hs (step_unpaused_of_offer hq hs)
    | pulse b =>
      have hd := h.streaming.duty
      simp [State.dutiful, hq, Beat.dutiful] at hd
    | pause d =>
      have hpause := h.step_of_pause hf hq
      obtain ⟨w, hw⟩ := step_total { s with producer := q }
      obtain ⟨k, t, -, hrun, hmatch, ht⟩ := ih (step_keeps_pastBubble h hpause) hf w hw rfl
      have hsame : s.unpaused = { s with producer := q }.unpaused := by
        rw [State.unpaused, State.unpaused, hq, offers]
      exact ⟨k + 1, t, Nat.le_add_left 1 k, (run_succ_of_step hpause).trans hrun, hsame ▸ hmatch, ht⟩

/-- Every cycle of the run without pauses is matched; a terminal state matches it by holding for one cycle. -/
theorem State.PastBubble.matchesCycle {s : State} (h : s.PastBubble) : s.MatchesCycle := by
  have hterminal (ht : s.terminal) : s.MatchesCycle :=
    h.matchesCycle_of_step (step_of_terminal ht h.rst) (step_unpaused_of_terminal ht h.rst h.streaming.duty)
  cases hf : s.fsm with
  | reset => exact absurd hf h.fsm
  | input => exact h.matchesCycle_of_input hf
  | done => exact hterminal (.inl hf)
  | error => exact hterminal (.inr hf)

/-- The run without pauses is matched cycle by cycle, by induction on its length. -/
theorem State.PastBubble.matches_run {s : State} (h : s.PastBubble) (n : Nat) :
    ∃ (m : Nat) (t : State), n ≤ m ∧ run m s = .next t ∧ run n s.unpaused = .next t.unpaused := by
  induction n generalizing s with
  | zero => exact ⟨0, s, le_rfl, run_zero s, run_zero _⟩
  | succ n ih =>
    obtain ⟨k, v, hk, hrun, hmatch, hv⟩ := h.matchesCycle
    obtain ⟨m, t, hm, hrun', hmatch'⟩ := ih hv
    exact ⟨k + m, t, by omega, (run_add hrun).trans hrun', (run_succ_of_step hmatch).trans hmatch'⟩

/-- Settles O51: the two runs end in a state and the same state without its pauses. -/
theorem resultsDoNotDependOnPauses : Obligations.ResultsDoNotDependOnPauses := by
  intro n s h hf hw hline
  obtain ⟨m, t, hm, hrun, hmatch⟩ := State.PastBubble.matches_run ⟨h, hf, hw, hline⟩ n
  exact ⟨m, t, t.unpaused, hm, hrun, hmatch, rfl, rfl⟩

end Sys2Proof.Machine

/-! SUPPORT. Two canonical memories with equal cells are the same list (log entry 4), entry by entry. An entry is
a nonzero cell and below the first entry every cell is zero, so the first entries have one address. -/

namespace Sys2Proof.Machine

/-- The two lists give every existing cell the same value. -/
def Memory.SameCells (m m' : Memory) : Prop :=
  ∀ n < Config.memDepth, Memory.cellAt m n = Memory.cellAt m' n

theorem Memory.SameCells.symm {m m' : Memory} (h : Memory.SameCells m m') : Memory.SameCells m' m :=
  fun n hn => (h n hn).symm

theorem Memory.sameCells_of_read {m m' : Memory} (h : ∀ a : Addr, m.read a = m'.read a) : Memory.SameCells m m' :=
  fun n hn => h (BitVec.ofFin ⟨n, hn⟩)

theorem Memory.cellAt_cons_same (a : Nat) (v : Word) (m : Memory) : Memory.cellAt ((a, v) :: m) a = v :=
  if_pos rfl

theorem Memory.cellAt_cons_other {a n : Nat} (v : Word) (m : Memory) (h : n ≠ a) :
    Memory.cellAt ((a, v) :: m) n = Memory.cellAt m n :=
  if_neg h

/-- An entry is a nonzero cell, so a list with the same cells cannot start above it. -/
theorem Memory.le_head_of_sameCells {lo lo' a : Nat} {v : Word} {m m' : Memory}
    (h : Memory.wfFrom lo ((a, v) :: m) = true) (h' : Memory.wfFrom lo' m' = true)
    (hcells : Memory.SameCells ((a, v) :: m) m') : lo' ≤ a := by
  obtain ⟨-, hdepth, hv, -⟩ := Memory.wfFrom_cons.mp h
  by_contra hlt
  have hzero : Memory.cellAt m' a = unlistedCell := Memory.cellAt_of_lt h' (not_le.mp hlt)
  exact hv <| calc
    v = Memory.cellAt ((a, v) :: m) a := (Memory.cellAt_cons_same a v m).symm
    _ = Memory.cellAt m' a := hcells a hdepth
    _ = unlistedCell := hzero

/-- Behind entries at one address the tails have the same cells: at that address both hold nothing. -/
theorem Memory.sameCells_tail {a : Nat} {v w : Word} {m m' : Memory} (h : Memory.wfFrom (a + 1) m = true)
    (h' : Memory.wfFrom (a + 1) m' = true) (hcells : Memory.SameCells ((a, v) :: m) ((a, w) :: m')) :
    Memory.SameCells m m' := by
  intro n hn
  by_cases hna : n = a
  · have hlt : n < a + 1 := Nat.lt_succ_of_le hna.le
    rw [Memory.cellAt_of_lt h hlt, Memory.cellAt_of_lt h' hlt]
  · rw [← Memory.cellAt_cons_other v m hna, ← Memory.cellAt_cons_other w m' hna]
    exact hcells n hn

/-- A canonical list whose cells are all zero is empty. -/
theorem Memory.eq_nil_of_sameCells {lo : Nat} {m : Memory} (h : Memory.wfFrom lo m = true)
    (hcells : Memory.SameCells m []) : m = [] := by
  cases m with
  | nil => rfl
  | cons c m =>
    obtain ⟨a, v⟩ := c
    have hle : Config.memDepth ≤ a := Memory.le_head_of_sameCells h rfl hcells
    exact absurd (Memory.wfFrom_cons.mp h).2.1 hle.not_gt

/-- The cells determine a canonical list, by induction on its entries. -/
theorem Memory.eq_of_sameCells {lo lo' : Nat} {m m' : Memory} (h : Memory.wfFrom lo m = true)
    (h' : Memory.wfFrom lo' m' = true) (hcells : Memory.SameCells m m') : m = m' := by
  induction m generalizing lo lo' m' with
  | nil => exact (Memory.eq_nil_of_sameCells h' hcells.symm).symm
  | cons c m ih =>
    cases m' with
    | nil => exact Memory.eq_nil_of_sameCells h hcells
    | cons c' m' =>
      obtain ⟨a, v⟩ := c
      obtain ⟨b, w⟩ := c'
      obtain ⟨-, ha, hv, htail⟩ := Memory.wfFrom_cons.mp h
      obtain ⟨-, hb, hw, htail'⟩ := Memory.wfFrom_cons.mp h'
      have hba : b ≤ a :=
        Memory.le_head_of_sameCells h (Memory.wfFrom_cons.mpr ⟨le_rfl, hb, hw, htail'⟩) hcells
      have hab : a ≤ b :=
        Memory.le_head_of_sameCells h' (Memory.wfFrom_cons.mpr ⟨le_rfl, ha, hv, htail⟩) hcells.symm
      obtain rfl : a = b := le_antisymm hab hba
      have hvw : v = w := by
        simpa only [Memory.cellAt_cons_same] using hcells a ha
      rw [hvw, ih htail htail' (Memory.sameCells_tail htail htail' hcells)]

/-- Settles O26: a canonical memory is determined by what its cells read as. -/
theorem canonicalMemoriesWithEqualCellsAreEqual : Obligations.CanonicalMemoriesWithEqualCellsAreEqual :=
  fun _ _ hm hm' hread => Memory.eq_of_sameCells hm hm' (Memory.sameCells_of_read hread)

end Sys2Proof.Machine
